-- ==== Sys2Proof/Word.lean ====
section
/-! DEFINITION. The word types of the decoder (spec/00_scope.md R12, R13): every quantity is an unsigned
bit vector; `+`, `-`, `*` on it wrap, as `+_N`, `-_N`, `*_N` of R15 do. -/

namespace Sys2Proof

/-- One memory cell of `HDR`, `BUF`, `TAB` or `OUT` (R12). -/
abbrev Byte := BitVec 8

/-- A word of Stage-1 Pass B (R12). -/
abbrev Half := BitVec 16

/-- Every seed value, PRNG word, length field, checksum, cursor and counter (R12). -/
abbrev Word := BitVec 32

/-- The 35-bit registers of the Permutation Engine (spec/10_state.md R47). -/
abbrev Index35 := BitVec 35

end Sys2Proof
end

