-- ==== Sys2Proof/Config.lean ====
section
/-! DEFINITION. What an implementation fixes and the spec leaves open: the parameters of spec/00_scope.md R11, every one
of them a field (spec/93_implementation_defined.md U12, U15). They stand in State as plain data that no step changes, so
that a statement about every state is a statement about every choice of them (log 6, log 21). The values the spec takes
are `Params.config` in Machine/Params.lean, beside the constants of R10. -/

namespace Sys2Proof

/-- The readings of the source's sentence about a partial slice that spec/90_conflicts.md C3 names: what
`PARTIAL_LIMIT(slice, rem)` computes. A name, not a function, so that State stays plain data (log 21). -/
inductive PartialLimit where
  /-- `min(slice, rem * 8)`, the source's literal formula, which the spec takes (D8). -/
  | literal
  /-- `min(slice * 8, rem * 8)`, the bits that are left. -/
  | bitsLeft
  deriving DecidableEq, Repr

/-- The numeric code of each error kind (spec/60_exceptions.md R300, D4). -/
structure ErrCodes where
  invalidHeader : BitVec 4
  bufferTooSmall : BitVec 4
  missingEndMarker : BitVec 4
  checksumMismatch : BitVec 4
  sizeMismatch : BitVec 4
  regionTooLarge : BitVec 4
  decodeOverflow : BitVec 4
  allocationFailure : BitVec 4
  illegalOpcode : BitVec 4
  invalidSeed : BitVec 4
  deriving DecidableEq, Repr

/-- The ten codes in the order of R300. -/
def ErrCodes.all (c : ErrCodes) : List (BitVec 4) :=
  [c.invalidHeader, c.bufferTooSmall, c.missingEndMarker, c.checksumMismatch, c.sizeMismatch, c.regionTooLarge,
    c.decodeOverflow, c.allocationFailure, c.illegalOpcode, c.invalidSeed]

/-- `ERR` holds 0 or a code 1..10 (spec/10_state.md R45), and a code tells its kind. -/
abbrev ErrCodes.legal (c : ErrCodes) : Prop := (∀ k ∈ c.all, 1 ≤ k.toNat ∧ k.toNat ≤ 10) ∧ c.all.Nodup

/-- The parameters of R11. -/
structure Config where
  /-- `S2_ADD_CONST`: added to the auxiliary seed to form the Stage-2 multiplier (D15). -/
  s2AddConst : Word
  /-- `CK_INIT`: the start values of `CX` and `CS` (D17). -/
  ckInit : Word × Word
  /-- `CK_HIGH_IS_XOR`: the stored high word is compared with the complement-XOR fold (D18). -/
  ckHighIsXor : Bool
  /-- `PERM_BIT_LSB0`: bit index `k` is the bit of weight `2^k` (D7). -/
  permBitLsb0 : Bool
  /-- `PARTIAL_LIMIT` (D8). -/
  partialLimit : PartialLimit
  /-- `CAP_IN`: the longest container, in bytes (D3). -/
  capIn : Nat
  /-- `CAP_ORDER`: entries of the order memory; the spec asks for at least 2048. -/
  capOrder : Nat
  /-- `CAP_TABLE`: entries of the opcode table. -/
  capTable : Nat
  /-- `CAP_OUT`: bytes of the destination. -/
  capOut : Nat
  /-- The error codes (D4). -/
  codes : ErrCodes
  deriving DecidableEq, Repr

/-- The free values: what a register holds that the spec calls unspecified after an operation that goes on. No body, so
no proof can rest on a value; the argument is the counter `free` of State (log 11). -/
opaque Config.freeByte : Nat → BitVec 8

/-- The conditions the spec puts on the parameters: `CAP_ORDER >= 2048` (R11, D3) and the range of the codes (R45). -/
abbrev Config.admissible (c : Config) : Prop := 2048 ≤ c.capOrder ∧ c.codes.legal

end Sys2Proof
end

