-- ==== Sys2Proof/Machine/Params.lean ====
section
/-! DEFINITION. The configuration layer's constants: the literals of spec/00_scope.md R10, which the spec calls
unaudited, and the values the spec takes for the parameters of R11 (log 14, UNVERIFIED, unsafe). They stand under
Machine/ so that a later repair can mend a value. -/

namespace Sys2Proof.Params

/-- `INCREMENT`, the PRNG's additive constant. -/
def increment : Word := 0x2F09

/-- `CONST`, the PRNG multiplier of Stage-1 and of Stage-2 step 5. -/
def const : Word := 0x3B9A73C9

/-- `DRAW15_MASK`. -/
def draw15Mask : Word := 0x7FFF

/-- The 8-bit mask of `draw8` (spec/40_prng.md R142). -/
def draw8Mask : Word := 0xFF

/-- `DRAW_SHIFT`. -/
def drawShift : Nat := 16

/-- `S1_REGION`, bytes. -/
def s1Region : Nat := 0x800

/-- `S1_SLICE`, bytes. -/
def s1Slice : Nat := 0x100

/-- `S2_REGION`, bytes. -/
def s2Region : Nat := 0x800

/-- `S2_SLICE`, bytes. -/
def s2Slice : Nat := 0x80

/-- `S2_MIN_LEN`, bytes. -/
def s2MinLen : Nat := 16

/-- `SENTINEL`. -/
def sentinel : Byte := 0xFF

/-- `PREFIX_CAP` (spec/90_conflicts.md C1). -/
def prefixCap : Nat := 7

/-- `TYPE_TAG`. -/
def typeTag : Word := 2

/-- `HEADER_LEN`, bytes. -/
def headerLen : Nat := 16

/-- `RUN6_BASE`. -/
def run6Base : Nat := 8

/-- `RUN7_BASE`. -/
def run7Base : Nat := 14

/-- `MIN_ORDER_BITS`. -/
def minOrderBits : Nat := 4

/-- `TABLE_RING`: the entries of `TABLE` and `LENGTH` that Stage-2 cycles. -/
abbrev tableRing : Nat := 3

/-- The codes of spec/60_exceptions.md R300, in its order. -/
def errCodes : ErrCodes :=
  { invalidHeader := 1, bufferTooSmall := 2, missingEndMarker := 3, checksumMismatch := 4, sizeMismatch := 5,
    regionTooLarge := 6, decodeOverflow := 7, allocationFailure := 8, illegalOpcode := 9, invalidSeed := 10 }

/-- The parameters of R11 at the values the spec takes, the configuration after reset (log 14). The capacities, which it
leaves open, are as good as unbounded: no 32-bit length exceeds them, so `AllocationFailure` is never raised
(spec/60_exceptions.md R317). DESIGN CHOICE for the state after reset, unsafe (log 6). -/
def config : Config :=
  { s2AddConst := const, ckInit := (0, 0), ckHighIsXor := true, permBitLsb0 := true, partialLimit := .literal
    capIn := 4294967295, capOrder := 34359738360, capTable := 4294967295, capOut := 4294967295, codes := errCodes }

end Sys2Proof.Params
end

