-- ==== Sys2Proof/Syntax.lean ====
section
/-! DEFINITION. The two instruction codes of the decoder: the seven Glaze opcodes
(spec/30_encoding.md R112) and the eight codeword classes of the prefix code (R110). One constructor per row of
spec/opcode_table.json. An operand that an instruction takes from the dictionary or the length-overflow stream is
no part of its encoding in `TAB` (R112): the instruction fetches it while it runs. -/

namespace Sys2Proof

/-- One Glaze instruction with its `TAB` operands, or one codeword of the prefix code with its payload. -/
inductive Instr where
  /-- `LIT`, spec/46_glaze.md R261. -/
  | lit
  /-- `REP d`, R262: `d` is the distance. -/
  | rep (d : Byte)
  /-- `CPY d0, l0`, R263. -/
  | cpy (d0 l0 : Byte)
  /-- `CPYD l0`, R264: `d0` comes from the dictionary stream. -/
  | cpyd (l0 : Byte)
  /-- `CPYW dHi, l0`, R265: `dLo` comes from the dictionary stream. -/
  | cpyw (dHi l0 : Byte)
  /-- `RUN l0`, R266. -/
  | run (l0 : Byte)
  /-- `RUNX`, R267: `l0` comes from the length-overflow stream. -/
  | runx
  /-- `PFX0`, pattern `1`, spec/45_code_table.md R230. -/
  | pfx0
  /-- `PFX1`, pattern `01p`, R231. -/
  | pfx1 (p : BitVec 1)
  /-- `PFX2`, pattern `001pp`, R232. -/
  | pfx2 (p : BitVec 2)
  /-- `PFX3`, pattern `0001ppp`, R233. -/
  | pfx3 (p : BitVec 3)
  /-- `PFX4`, pattern `00001pppp`, R234. -/
  | pfx4 (p : BitVec 4)
  /-- `PFX5`, pattern `000001ppppp`, R235. -/
  | pfx5 (p : BitVec 5)
  /-- `PFX6`, pattern `0000001pppppp`, R236. -/
  | pfx6 (p : BitVec 6)
  /-- `PFXZ`, pattern `0000000`, R237. -/
  | pfxz
  deriving DecidableEq, Repr

end Sys2Proof
end

