-- ==== Sys2Proof/WellFormed.lean ====
section
/-! DEFINITION. Which instructions the spec admits: a `TAB` operand is a value the prefix code can produce, 0..127
(spec/30_encoding.md R113, R110). The payload of a codeword has exactly its class's bits by its type. -/

namespace Sys2Proof

/-- A value a codeword can decode to: 0..127 (R110, spec/45_code_table.md R227). -/
def Byte.isTabEntry (b : Byte) : Bool := b.toNat < 128

/-- The operand ranges of R113, one check per `TAB` operand. -/
def Instr.wf : Instr → Bool
  | .lit => true
  | .rep d => Byte.isTabEntry d
  | .cpy d0 l0 => Byte.isTabEntry d0 && Byte.isTabEntry l0
  | .cpyd l0 => Byte.isTabEntry l0
  | .cpyw dHi l0 => Byte.isTabEntry dHi && Byte.isTabEntry l0
  | .run l0 => Byte.isTabEntry l0
  | .runx => true
  | .pfx0 => true
  | .pfx1 _ => true
  | .pfx2 _ => true
  | .pfx3 _ => true
  | .pfx4 _ => true
  | .pfx5 _ => true
  | .pfx6 _ => true
  | .pfxz => true

/-- The Glaze instructions, as against the codewords of the prefix code (spec/00_scope.md R2, R21). -/
def Instr.isGlaze : Instr → Bool
  | .lit => true
  | .rep _ => true
  | .cpy _ _ => true
  | .cpyd _ => true
  | .cpyw _ _ => true
  | .run _ => true
  | .runx => true
  | .pfx0 => false
  | .pfx1 _ => false
  | .pfx2 _ => false
  | .pfx3 _ => false
  | .pfx4 _ => false
  | .pfx5 _ => false
  | .pfx6 _ => false
  | .pfxz => false

end Sys2Proof
end

