-- ==== Sys2Proof/Decode.lean ====
section
/-! DEFINITION. The decoders of the two codes, total on any bytes and on any bits, rejecting by name, and the
encoder written from the same tables (spec/30_encoding.md R110, R112, R120; spec/45_code_table.md R230 to R237). -/

namespace Sys2Proof

/-- Why the words at hand are no instruction. -/
inductive DecodeError where
  /-- The opcode byte is not one of 1..7 (R120). -/
  | illegalOpcode (b : Byte)
  /-- The bytes end inside an instruction. -/
  | tableEnds
  /-- The bits end inside a codeword (spec/45_code_table.md R225). -/
  | bitsEnd
  deriving DecidableEq, Repr

/-! ## Bits -/

/-- The value of a list of bits, the first one most significant (spec/20_memory.md R71). -/
def bitsToNat (bits : List Bool) : Nat := bits.foldl (fun v b => 2 * v + b.toNat) 0

/-- The low `k` bits of `v`, most significant first. -/
def bitsOf : Nat → Nat → List Bool
  | 0, _ => []
  | k + 1, v => v.testBit k :: bitsOf k v

/-- A byte's bits in the order the Bitstream Reader delivers them: 0x80, 0x40, …, 0x01 (R71). -/
def bitsOfBytes (bytes : List Byte) : List Bool := bytes.flatMap (fun b => bitsOf 8 b.toNat)

/-! ## The Glaze opcode set -/

/-- How many operand bytes an opcode byte takes from `TAB` (R112). -/
def tabOperands (op : Byte) : Nat :=
  match op.toNat with
  | 2 => 1
  | 3 => 2
  | 4 => 1
  | 5 => 2
  | 6 => 1
  | _ => 0

/-- A Glaze instruction from the bytes of `TAB`, and the bytes after it (R112, R113). -/
def decodeTab : List Byte → Except DecodeError (Instr × List Byte)
  | [] => .error .tableEnds
  | op :: rest =>
    match op.toNat, rest with
    | 1, r => .ok (.lit, r)
    | 2, d :: r => .ok (.rep d, r)
    | 2, [] => .error .tableEnds
    | 3, d0 :: l0 :: r => .ok (.cpy d0 l0, r)
    | 3, _ => .error .tableEnds
    | 4, l0 :: r => .ok (.cpyd l0, r)
    | 4, [] => .error .tableEnds
    | 5, dHi :: l0 :: r => .ok (.cpyw dHi l0, r)
    | 5, _ => .error .tableEnds
    | 6, l0 :: r => .ok (.run l0, r)
    | 6, [] => .error .tableEnds
    | 7, r => .ok (.runx, r)
    | _, _ => .error (.illegalOpcode op)

/-! ## The prefix code -/

/-- The codeword class of a prefix of `k` zeros ended by a 1, with payload `p` (R110). -/
def pfxOfClass : Nat → Nat → Instr
  | 0, _ => .pfx0
  | 1, p => .pfx1 (BitVec.ofNat 1 p)
  | 2, p => .pfx2 (BitVec.ofNat 2 p)
  | 3, p => .pfx3 (BitVec.ofNat 3 p)
  | 4, p => .pfx4 (BitVec.ofNat 4 p)
  | 5, p => .pfx5 (BitVec.ofNat 5 p)
  | 6, p => .pfx6 (BitVec.ofNat 6 p)
  | _, _ => .pfxz

/-- A codeword after `k` zeros have been read: the terminating 1 and `k` payload bits, or another zero, the
capped form at `PREFIX_CAP` zeros (R110, spec/45_code_table.md R222, R223). -/
def decodeBitsAfter (k : Nat) : List Bool → Except DecodeError (Instr × List Bool)
  | [] => .error .bitsEnd
  | true :: rest =>
    if rest.length < k then .error .bitsEnd
    else .ok (pfxOfClass k (bitsToNat (rest.take k)), rest.drop k)
  | false :: rest =>
    if k + 1 = Params.prefixCap then .ok (.pfxz, rest) else decodeBitsAfter (k + 1) rest

/-- A codeword from the front of a bit string, and the bits after it. -/
def decodeBits (bits : List Bool) : Except DecodeError (Instr × List Bool) := decodeBitsAfter 0 bits

/-! ## Both codes -/

/-- The words of an instruction: bytes of `TAB` for a Glaze instruction, packed bits for a codeword. -/
inductive Code where
  | tab (bytes : List Byte)
  | bits (bits : List Bool)
  deriving DecidableEq, Repr

/-- The instruction at the front of some words and the words after it. -/
def decode : Code → Except DecodeError (Instr × Code)
  | .tab bytes =>
    match decodeTab bytes with
    | .ok (i, r) => .ok (i, .tab r)
    | .error e => .error e
  | .bits bits =>
    match decodeBits bits with
    | .ok (i, r) => .ok (i, .bits r)
    | .error e => .error e

/-- The pattern of a codeword of class `k`: `k` zeros, a 1, the payload most significant bit first (R110). -/
def codeword (k p : Nat) : List Bool := List.replicate k false ++ true :: bitsOf k p

/-- The words of an instruction (R112 for the opcode bytes, R110 for the patterns). -/
def encode : Instr → Code
  | .lit => .tab [1]
  | .rep d => .tab [2, d]
  | .cpy d0 l0 => .tab [3, d0, l0]
  | .cpyd l0 => .tab [4, l0]
  | .cpyw dHi l0 => .tab [5, dHi, l0]
  | .run l0 => .tab [6, l0]
  | .runx => .tab [7]
  | .pfx0 => .bits (codeword 0 0)
  | .pfx1 p => .bits (codeword 1 p.toNat)
  | .pfx2 p => .bits (codeword 2 p.toNat)
  | .pfx3 p => .bits (codeword 3 p.toNat)
  | .pfx4 p => .bits (codeword 4 p.toNat)
  | .pfx5 p => .bits (codeword 5 p.toNat)
  | .pfx6 p => .bits (codeword 6 p.toNat)
  | .pfxz => .bits (List.replicate Params.prefixCap false)

/-- Words followed by more words of the same code. -/
def Code.append : Code → Code → Option Code
  | .tab a, .tab b => some (.tab (a ++ b))
  | .bits a, .bits b => some (.bits (a ++ b))
  | .tab _, .bits _ => none
  | .bits _, .tab _ => none

/-- How many bytes of `TAB`, or packed bits, an instruction takes (R112, R125, R110). -/
def Instr.size : Instr → Nat
  | .lit => 1
  | .rep _ => 2
  | .cpy _ _ => 3
  | .cpyd _ => 2
  | .cpyw _ _ => 3
  | .run _ => 2
  | .runx => 1
  | .pfx0 => 1
  | .pfx1 _ => 3
  | .pfx2 _ => 5
  | .pfx3 _ => 7
  | .pfx4 _ => 9
  | .pfx5 _ => 11
  | .pfx6 _ => 13
  | .pfxz => 7

/-- The number of bytes or bits of some words. -/
def Code.size : Code → Nat
  | .tab l => l.length
  | .bits l => l.length

/-! ## The opcode table's words -/

/-- The low `n` bytes of a number, the lowest first. -/
def bytesOfNat : Nat → Nat → List Byte
  | 0, _ => []
  | n + 1, w => BitVec.ofNat 8 w :: bytesOfNat n (w / 256)

/-- A table word is read by the Glaze decoder when it has at most 8 bits and its byte is an opcode 1..7; every other
word is the packed bytes of a codeword, read most significant bit of the first byte first (log 13). -/
def tableWordIsGlaze (nbits w : Nat) : Bool :=
  decide (nbits ≤ 8) && decide (1 ≤ w % 2 ^ nbits) && decide (w % 2 ^ nbits ≤ 7)

/-- The bytes of `TAB` for a table word: the opcode byte and operand bytes of zeros. -/
def glazeTableBytes (nbits w : Nat) : List Byte := bytesOfNat 3 (w % 2 ^ nbits)

/-- The bytes of the bitstream region for a table word: the longest codeword has 13 bits. -/
def codewordTableBytes (nbits w : Nat) : List Byte := bytesOfNat 2 (w % 2 ^ nbits)

/-- The instruction the decoder reads from a word of spec/opcode_table.json (log 13). -/
def decodeTableWord (nbits w : Nat) : Option Instr :=
  if tableWordIsGlaze nbits w then
    match decodeTab (glazeTableBytes nbits w) with
    | .ok (i, _) => some i
    | .error _ => none
  else
    match decodeBits (bitsOfBytes (codewordTableBytes nbits w)) with
    | .ok (i, _) => some i
    | .error _ => none

end Sys2Proof
end

