-- ==== Sys2Proof/Machine/State.lean ====
section
/-! DEFINITION. The state of the decoder as plain data: one structure per register table of spec/10_state.md
(R31, R32, R45 to R49), the six memory spaces of R50, and the model's three own fields `cfg`, `host` and
`free`.
Registers that R60 leaves unspecified after power-on are 0 after reset: DESIGN CHOICE, unsafe (log 2). -/

namespace Sys2Proof.Machine

/-- A byte memory: (address, byte) pairs with strictly rising addresses. An address that is not listed holds no
value: R60 asks that a read of a cell nothing has written be a fault, never a value (log 3). -/
abbrev Memory := List Host.Cell

/-- The canonical form: addresses strictly rising. No entry can equal what an unlisted address reads as, since that
is no value. -/
abbrev Memory.wf (m : Memory) : Prop := m.Pairwise (fun c d => c.1 < d.1)

/-- One of the register arrays `MAIN`, `TABLE`, `LENGTH` (R31): three words, indices 0..2. -/
structure Triple where
  e0 : Word
  e1 : Word
  e2 : Word
  deriving DecidableEq, Repr

/-- The SeedSet register file (R31). -/
structure SeedSet where
  main : Triple
  table : Triple
  length : Triple
  fence : Word
  deriving DecidableEq, Repr

/-- The PRNG register pair `M`, `A` (R32). -/
structure Prng where
  m : Word
  a : Word
  deriving DecidableEq, Repr

/-- The Permutation Engine's registers `PE_*` (R47). -/
structure PermRegs where
  base : Word
  total : Word
  slice : Word
  pos : Word
  rem : Word
  n : Index35
  p : Index35
  j : Index35
  i : Index35
  deriving DecidableEq, Repr

/-- The Stage-2 registers (R48). `idx` is below `TABLE_RING`. -/
structure Stage2Regs where
  len : Word
  aux : Word
  ckHigh : Word
  ckLow : Word
  marker : Word
  idx : Fin Params.tableRing
  fudge : Word
  count : Word
  cx : Word
  cs : Word
  tLen : Word
  deriving DecidableEq, Repr

/-- The Bitstream Reader's registers `BR_*` (R49, spec/44_bitstream.md R210). -/
structure Reader where
  base : Word
  len : Word
  cur : Word
  bitbuf : Byte
  mask : Byte
  deriving DecidableEq, Repr

/-- The Code Table Builder's registers `TLEN`, `TCOUNT`, `CODE_LEN` (R49). -/
structure TableRegs where
  tlen : Word
  tcount : Word
  codeLen : BitVec 3
  deriving DecidableEq, Repr

/-- The Glaze registers (R49): the header fields and the four cursors. `tp` is the program counter (R40). -/
structure GlazeRegs where
  declared : Word
  lb : Word
  ld : Word
  lo : Word
  dictBase : Word
  ovfBase : Word
  tp : Word
  dp : Word
  lp : Word
  wp : Word
  deriving DecidableEq, Repr

/-- `STATUS` (R45). -/
inductive Status where
  | idle
  | busy
  | done
  | failed
  deriving DecidableEq, Repr

/-- `PHASE` (R45): the sequencer's position, in the order of spec/47_orchestrator.md R285. -/
inductive Phase where
  | hdr
  | seedchk
  | s1a
  | s1b
  | s2Tail
  | s2Scan
  | s2Xor
  | s2Ck
  | s2Perm
  | glzHdr
  | glzTab
  | glzRun
  | finished
  deriving DecidableEq, Repr

/-- The ten error kinds (spec/60_exceptions.md R300). -/
inductive ErrKind where
  | invalidHeader
  | bufferTooSmall
  | missingEndMarker
  | checksumMismatch
  | sizeMismatch
  | regionTooLarge
  | decodeOverflow
  | allocationFailure
  | illegalOpcode
  | invalidSeed
  deriving DecidableEq, Repr

/-- What the host may ask for while the decoder is not `BUSY` (R55, spec/70_reset_and_hazards.md R345, R350).
R55's `load` is the first two together, in any order (R345). -/
inductive HostAction where
  /-- Write the container: its bytes into `HDR` and `BUF`, its length into `N_IN`. -/
  | loadContainer (bytes : List Byte)
  /-- Write all ten SeedSet registers. -/
  | loadSeeds (seeds : SeedSet)
  /-- Rewrite `TABLE[0..2]` alone, the least R350 asks before another `start`. -/
  | loadTable (table : Triple)
  /-- Start a decode. -/
  | start
  deriving DecidableEq, Repr

/-- The six memory spaces (R50). -/
inductive Space where
  | hdr
  | buf
  | pool
  | ord
  | tab
  | out
  deriving DecidableEq, Repr

/-- Where the model stops. -/
inductive Fault where
  /-- An access to a cell that does not exist or that nothing has written in this decode. Raised by the reads and
  writes of Machine/Ops.lean. Safe: R60 asks for it, and no run from reset meets it. -/
  | noCell (space : Space) (addr : Nat)
  deriving DecidableEq, Repr

/-- What the model gives no meaning to. -/
inductive Refusal where
  /-- Raised by exec's arm of an instruction that has no meaning yet. Safe. -/
  | notModelled (mnemonic : String)
  /-- The host asks to load 2^32 bytes or more, which the 32-bit register `N_IN` cannot count (R12, R46). Raised by
  the host's load. Safe (log 8). -/
  | containerTooLong
  deriving DecidableEq, Repr

/-- The machine's state. -/
structure State where
  /-- The model's own field: the parameters of R11 (log 6, log 14, log 21). -/
  cfg : Config
  /-- The model's own field: the host's requests, the next one first (log 4). -/
  host : List HostAction
  /-- The model's own field: how many free values have been taken (log 11). -/
  free : Nat
  /-- `STATUS`. -/
  status : Status
  /-- `ERR`: 0, or the code of the error kind taken. -/
  err : BitVec 4
  /-- `PHASE`. -/
  phase : Phase
  seeds : SeedSet
  prng : Prng
  /-- `N_IN` (R46). -/
  nIn : Word
  /-- `EXPECTED` (R46). -/
  expected : Word
  /-- `PAY_LEN` (R46). -/
  payLen : Word
  pe : PermRegs
  s2 : Stage2Regs
  br : Reader
  ct : TableRegs
  glz : GlazeRegs
  hdr : Memory
  buf : Memory
  /-- `POOL`: entry `q` is the list's entry at index `q`. -/
  pool : List Nat
  /-- `ORD`: entry `j` is the list's entry at index `j`. -/
  ord : List Nat
  tab : Memory
  out : Memory
  deriving DecidableEq, Repr

/-- Three words that are all 0. -/
def Triple.zero : Triple := { e0 := 0, e1 := 0, e2 := 0 }

/-- The machine after power-on (R60): `STATUS = IDLE`, `ERR = 0`, no memory cell holds a value. Every other
register is unspecified there and 0 here, `PHASE` is `HDR` (log 2, DESIGN CHOICE, unsafe). -/
def State.reset : State :=
  { cfg := Params.config
    host := []
    free := 0
    status := .idle
    err := 0
    phase := .hdr
    seeds := { main := .zero, table := .zero, length := .zero, fence := 0 }
    prng := { m := 0, a := 0 }
    nIn := 0
    expected := 0
    payLen := 0
    pe := { base := 0, total := 0, slice := 0, pos := 0, rem := 0, n := 0, p := 0, j := 0, i := 0 }
    s2 :=
      { len := 0, aux := 0, ckHigh := 0, ckLow := 0, marker := 0, idx := 0, fudge := 0, count := 0,
        cx := 0, cs := 0, tLen := 0 }
    br := { base := 0, len := 0, cur := 0, bitbuf := 0, mask := 0 }
    ct := { tlen := 0, tcount := 0, codeLen := 0 }
    glz :=
      { declared := 0, lb := 0, ld := 0, lo := 0, dictBase := 0, ovfBase := 0, tp := 0, dp := 0, lp := 0,
        wp := 0 }
    hdr := []
    buf := []
    pool := []
    ord := []
    tab := []
    out := [] }

end Sys2Proof.Machine
end

