-- ==== Sys2Proof/Machine/Ops.lean ====
section
/-! DEFINITION. The named operations over memory and registers, the result of an operation, taking a fault
(spec/60_exceptions.md R301) and the four stream accesses of the Glaze loop (spec/46_glaze.md R247 to R252). -/

namespace Sys2Proof.Machine

/-! ## Byte memories -/

/-- The byte a cell holds, if it holds one. -/
def Memory.read : Memory → Nat → Option Byte
  | [], _ => none
  | (b, v) :: m, a => if b = a then some v else Memory.read m a

/-- Store a byte, keeping the addresses strictly rising. -/
def Memory.write : Memory → Nat → Byte → Memory
  | [], a, v => [(a, v)]
  | (b, w) :: m, a, v =>
    if a < b then (a, v) :: (b, w) :: m
    else if a = b then (a, v) :: m
    else (b, w) :: Memory.write m a v

/-- Consecutive bytes from address `a` on. -/
def Memory.ofBytes : Nat → List Byte → Memory
  | _, [] => []
  | a, v :: vs => (a, v) :: Memory.ofBytes (a + 1) vs

/-- Store consecutive bytes from address `a` on. -/
def Memory.writeBytes (m : Memory) : Nat → List Byte → Memory
  | _, [] => m
  | a, v :: vs => Memory.writeBytes (Memory.write m a v) (a + 1) vs

/-- The `n` bytes from address `a` on, if every one of them is there. -/
def Memory.bytes (m : Memory) : Nat → Nat → Option (List Byte)
  | _, 0 => some []
  | a, n + 1 =>
    match m.read a, Memory.bytes m (a + 1) n with
    | some v, some vs => some (v :: vs)
    | _, _ => none

/-- The 16-bit big-endian word of two bytes, the first one most significant (spec/20_memory.md R70). -/
def word16 (b0 b1 : Byte) : Half := b0 ++ b1

/-- The 32-bit big-endian word of four bytes (R70). -/
def word32 (b0 b1 b2 b3 : Byte) : Word := b0 ++ b1 ++ b2 ++ b3

/-- `MemRead(S, a, 4)` over a space that answers single bytes (spec/00_scope.md R17). -/
def read32 (at' : Nat → Option Byte) (a : Nat) : Option Word :=
  match at' a, at' (a + 1), at' (a + 2), at' (a + 3) with
  | some b0, some b1, some b2, some b3 => some (word32 b0 b1 b2 b3)
  | _, _, _, _ => none

/-! ## Register arrays and codes -/

/-- `X[i]` of a register array (R16). -/
def Triple.get (t : Triple) : Fin Params.tableRing → Word
  | 0 => t.e0
  | 1 => t.e1
  | 2 => t.e2

/-- `X[i] <- v` (R16). -/
def Triple.set (t : Triple) (i : Fin Params.tableRing) (v : Word) : Triple :=
  match i with
  | 0 => { t with e0 := v }
  | 1 => { t with e1 := v }
  | 2 => { t with e2 := v }

/-- The code an error kind has in `ERR` (R300). -/
def ErrKind.code (c : ErrCodes) : ErrKind → BitVec 4
  | .invalidHeader => c.invalidHeader
  | .bufferTooSmall => c.bufferTooSmall
  | .missingEndMarker => c.missingEndMarker
  | .checksumMismatch => c.checksumMismatch
  | .sizeMismatch => c.sizeMismatch
  | .regionTooLarge => c.regionTooLarge
  | .decodeOverflow => c.decodeOverflow
  | .allocationFailure => c.allocationFailure
  | .illegalOpcode => c.illegalOpcode
  | .invalidSeed => c.invalidSeed

/-- The number `STATUS` reads as (R45). -/
def Status.code : Status → BitVec 2
  | .idle => 0
  | .busy => 1
  | .done => 2
  | .failed => 3

/-! ## Results of operations -/

/-- What an operation comes to: a value and the state it leaves, an error kind raised in a state, or a stop of the
model. -/
inductive Result (α : Type) where
  | ok (a : α) (s : State)
  | raised (k : ErrKind) (s : State)
  | stuck (f : Fault)

/-- One operation after another: the first that raises or stops ends it (spec/00_scope.md R18, R19). -/
def Result.andThen {α β : Type} (r : Result α) (f : α → State → Result β) : Result β :=
  match r with
  | .ok a s => f a s
  | .raised k s => .raised k s
  | .stuck x => .stuck x

/-- The state an operation leaves, whether it went on or raised an error kind: effects already made stay
(spec/60_exceptions.md R302). -/
def Result.Leaves {α : Type} (r : Result α) (t : State) : Prop := (∃ a, r = .ok a t) ∨ ∃ k, r = .raised k t

/-! ## Taking a fault

There is no handler, no vector, no saved state and no return (R301, R303): the one way forward is a new `start`,
`State.start` of Machine/Orchestrator.lean, which clears `ERR`. -/

/-- `raise K`: `ERR <- code(K)`, `STATUS <- FAILED`; the sequencer stops because it runs only while `BUSY`.
`PHASE` and every effect already made stay (R301, R302). -/
def State.raise (k : ErrKind) (s : State) : State := { s with err := k.code s.cfg.codes, status := .failed }

/-- An operation's result as the outcome of a step: a raised kind is a next state, the fault taken. -/
def Result.toOutcome (r : Result Unit) : Host.Outcome State Fault Refusal :=
  match r with
  | .ok _ s => .next s
  | .raised k s => .next (s.raise k)
  | .stuck f => .fault f

/-! ## Named updates -/

/-- The sequencer goes on to a phase (R285). -/
def State.enter (ph : Phase) (s : State) : State := { s with phase := ph }

/-- `TP <- TP + n` (spec/10_state.md R40). -/
def State.advanceTp (n : Nat) (s : State) : State :=
  { s with glz := { s.glz with tp := s.glz.tp + BitVec.ofNat 32 n } }

/-- `OUT[WP] <- b; WP <- WP + 1` (R250). -/
def State.pushOut (b : Byte) (s : State) : State :=
  { s with out := s.out.write s.glz.wp.toNat b, glz := { s.glz with wp := s.glz.wp + 1 } }

/-- `TAB[TCOUNT] <- v; TCOUNT <- TCOUNT + 1`, with the prefix counter at `k`
(spec/45_code_table.md R221, R222). -/
def State.pushTab (k : Nat) (v : Byte) (s : State) : State :=
  { s with
    tab := s.tab.write s.ct.tcount.toNat v
    ct := { s.ct with tcount := s.ct.tcount + 1, codeLen := BitVec.ofNat 3 k } }

/-- A byte of `BUF` is written. -/
def State.setBuf (a : Nat) (v : Byte) (s : State) : State := { s with buf := s.buf.write a v }

/-- The reader's registers are written. -/
def State.setReader (r : Reader) (s : State) : State := { s with br := r }

/-- The PRNG's registers are written. -/
def State.setPrng (p : Prng) (s : State) : State := { s with prng := p }

/-! ## `BUF` -/

/-- A byte of `BUF`: addresses below `PAY_LEN` exist (R50, spec/20_memory.md R76). -/
def State.bufAt (s : State) (a : Nat) : Option Byte := if a < s.payLen.toNat then s.buf.read a else none

/-- Read a byte of `BUF`. -/
def readBuf (a : Nat) (s : State) : Result Byte :=
  match s.bufAt a with
  | some v => .ok v s
  | none => .stuck (.noCell .buf a)

/-- Write a byte of `BUF`. -/
def writeBuf (a : Nat) (v : Byte) (s : State) : Result Unit :=
  if a < s.payLen.toNat then .ok () (s.setBuf a v) else .stuck (.noCell .buf a)

/-- Read a big-endian 32-bit word of `BUF` (R70, R17). -/
def readBuf32 (a : Nat) (s : State) : Result Word :=
  match read32 s.bufAt a with
  | some w => .ok w s
  | none => .stuck (.noCell .buf a)

/-- Read a big-endian 32-bit word of `HDR` (R70, R17). -/
def readHdr32 (a : Nat) (s : State) : Result Word :=
  match read32 s.hdr.read a with
  | some w => .ok w s
  | none => .stuck (.noCell .hdr a)

/-! ## The stream accesses of the Glaze loop -/

/-- `fetch_tab()` (R247). -/
def fetchTab (s : State) : Result Byte :=
  if s.ct.tcount ≤ s.glz.tp then .raised .decodeOverflow s
  else
    match s.tab.read s.glz.tp.toNat with
    | some v => .ok v (s.advanceTp 1)
    | none => .stuck (.noCell .tab s.glz.tp.toNat)

/-- The `BUF` address of the next dictionary byte. -/
def State.dictAddr (s : State) : Nat := s.glz.dictBase.toNat + s.glz.dp.toNat

/-- The `BUF` address of the next length-overflow byte. -/
def State.ovfAddr (s : State) : Nat := s.glz.ovfBase.toNat + s.glz.lp.toNat

/-- `fetch_dict()` (R248). -/
def fetchDict (s : State) : Result Byte :=
  if s.glz.ld ≤ s.glz.dp then .raised .decodeOverflow s
  else (readBuf s.dictAddr s).andThen fun v t => .ok v { t with glz := { t.glz with dp := t.glz.dp + 1 } }

/-- `fetch_ovf()` (R249). -/
def fetchOvf (s : State) : Result Byte :=
  if s.glz.lo ≤ s.glz.lp then .raised .decodeOverflow s
  else (readBuf s.ovfAddr s).andThen fun v t => .ok v { t with glz := { t.glz with lp := t.glz.lp + 1 } }

/-- `put(b)` (R250): the bound is checked before the write. -/
def put (b : Byte) (s : State) : Result Unit :=
  if s.expected ≤ s.glz.wp then .raised .decodeOverflow s else .ok () (s.pushOut b)

/-- `backref(DIST, LEN)` (R251): one byte at a time in increasing destination order, `WP` read again each time. -/
def backref (dist : Nat) : Nat → State → Result Unit
  | 0, s => .ok () s
  | len + 1, s =>
    if dist < 1 ∨ s.glz.wp.toNat < dist then .raised .decodeOverflow s
    else
      match s.out.read (s.glz.wp.toNat - dist) with
      | none => .stuck (.noCell .out (s.glz.wp.toNat - dist))
      | some b => (put b s).andThen fun _ t => backref dist len t

/-- `litrun(COUNT)` (R252). -/
def litrun : Nat → State → Result Unit
  | 0, s => .ok () s
  | count + 1, s =>
    ((fetchDict s).andThen fun b t => put b t).andThen fun _ t => litrun count t

end Sys2Proof.Machine
end

