-- ==== Sys2Proof/Machine/Bitstream.lean ====
section
/-! DEFINITION. The Bitstream Reader (spec/44_bitstream.md). `EOS` is an outcome of its own, here `none`
(R214, D22). -/

namespace Sys2Proof.Machine

/-- `init(base, len)` (R211). `BR_BITBUF` is unspecified after it, a free value; nothing reads it before a refill
(log 11). -/
def initReader (base len : Word) (s : State) : State :=
  { s with br := { base := base, len := len, cur := 0, bitbuf := Config.freeByte s.free, mask := 0 }, free := s.free + 1 }

/-- The bit under the mask is delivered and the mask moves to the next lower bit (R212). -/
def deliverBit (s : State) : Result (Option Bool) :=
  .ok (some (s.br.bitbuf &&& s.br.mask != 0)) (s.setReader { s.br with mask := s.br.mask >>> 1 })

/-- `read_bit()` (R212): refilled lazily from the next byte when no bit is left; `EOS` changes no state. -/
def readBit (s : State) : Result (Option Bool) :=
  if s.br.mask = 0 then
    if s.br.len ≤ s.br.cur then .ok none s
    else
      (readBuf (s.br.base.toNat + s.br.cur.toNat) s).andThen fun v t =>
      deliverBit (t.setReader { t.br with bitbuf := v, cur := t.br.cur + 1, mask := 0x80 })
  else deliverBit s

/-- The next `n` bits in the order delivered, or `EOS` the instant the buffer is exhausted: bits already taken stay
consumed (R213). -/
def takeBits : Nat → State → Result (Option (List Bool))
  | 0, s => .ok (some []) s
  | n + 1, s =>
    (readBit s).andThen fun b s =>
    match b with
    | none => .ok none s
    | some b => (takeBits n s).andThen fun bs s => .ok (bs.map (fun l => b :: l)) s

/-- `read_bits(n)` (R213): the value of the next `n` bits, the first one most significant. -/
def readBits (n : Nat) (s : State) : Result (Option Nat) :=
  (takeBits n s).andThen fun bs s => .ok (bs.map bitsToNat) s

end Sys2Proof.Machine
end

