-- ==== Sys2Proof/Machine/Operands.lean ====
section
/-! DEFINITION. Operand assembly (spec/30_encoding.md R113): every operand is an unsigned byte, lengths and distances
are natural numbers and cannot wrap. The compositions of opcodes 3 and 5 stand alone under names of their own, as
spec/93_implementation_defined.md U9 asks. -/

namespace Sys2Proof.Machine

/-- `LEN = l0 + 1` of opcodes 3, 4 and 5. -/
def copyLen (l0 : Byte) : Nat := l0.toNat + 1

/-- `DIST = d` of opcode 2: no bias (spec/46_glaze.md R262). -/
def dist2 (d : Byte) : Nat := d.toNat

/-- `LEN = 1` of opcode 2. -/
def repLen : Nat := 1

/-- `DIST = d0 + l0 + 1` of opcode 3 (R263). -/
def dist3 (d0 l0 : Byte) : Nat := d0.toNat + l0.toNat + 1

/-- `DIST = d0 + l0 + 1` of opcode 4 (R264). -/
def dist4 (d0 l0 : Byte) : Nat := d0.toNat + l0.toNat + 1

/-- `DIST = ((dHi << 8) | dLo) + l0` of opcode 5, without the further 1 of opcodes 3 and 4 (R265). -/
def dist5 (dHi l0 dLo : Byte) : Nat := (dHi ++ dLo).toNat + l0.toNat

/-- The run length of opcode 6 (R266). -/
def runLen (l0 : Byte) : Nat := l0.toNat + Params.run6Base

/-- The run length of opcode 7 (R267). -/
def runxLen (l0 : Byte) : Nat := l0.toNat + Params.run7Base

/-- The value a codeword of class `k` with payload `p` decodes to: `(1 << k) | p` (R110). -/
def entryOf (k p : Nat) : Byte := (1 : Byte) <<< k ||| BitVec.ofNat 8 p

end Sys2Proof.Machine
end

