-- ==== Sys2Proof/Machine/CodeTable.lean ====
section
/-! DEFINITION. The Code Table Builder (spec/45_code_table.md): its set-up, its end, and the meaning of each codeword
class (R230 to R237) over one shared operation. -/

namespace Sys2Proof.Machine

/-- The region prefix (R220), in `PHASE = GLZ_TAB`. -/
def openTable (s : State) : Result Unit :=
  if s.glz.lb.toNat < 4 then .raised .regionTooLarge s
  else
    (readBuf32 8 s).andThen fun tlen s =>
    let s := { s with ct := { s.ct with tlen := tlen } }
    if s.cfg.capTable < tlen.toNat then .raised .allocationFailure s
    else .ok () (initReader 12 (s.glz.lb - 4) { s with ct := { s.ct with tcount := 0 } })

/-- The builder is done, with a full or a short table (R221, R225): the Glaze loop begins with its four cursors at 0
(spec/46_glaze.md R246). -/
def State.closeTable (s : State) : State :=
  { s with phase := .glzRun, glz := { s.glz with tp := 0, dp := 0, lp := 0, wp := 0 } }

/-- One codeword of `bits` bits and `k` counted zeros that decodes to `v`: its bits are read and the entry is emitted
(R221, R222). If the stream ends inside it the entry is not emitted and the table is short (R225). -/
def emitEntry (bits k : Nat) (v : Byte) (s : State) : Result Unit :=
  (takeBits bits s).andThen fun r s =>
  match r with
  | some _ => .ok () (s.pushTab k v)
  | none => .ok () ({ s with ct := { s.ct with codeLen := BitVec.ofNat 3 k } } : State).closeTable

/-- `PFX0` (R230). -/
def execPfx0 (s : State) : Host.Outcome State Fault Refusal := (emitEntry 1 0 (entryOf 0 0) s).toOutcome

/-- `PFX1` (R231). -/
def execPfx1 (p : BitVec 1) (s : State) : Host.Outcome State Fault Refusal :=
  (emitEntry 3 1 (entryOf 1 p.toNat) s).toOutcome

/-- `PFX2` (R232). -/
def execPfx2 (p : BitVec 2) (s : State) : Host.Outcome State Fault Refusal :=
  (emitEntry 5 2 (entryOf 2 p.toNat) s).toOutcome

/-- `PFX3` (R233). -/
def execPfx3 (p : BitVec 3) (s : State) : Host.Outcome State Fault Refusal :=
  (emitEntry 7 3 (entryOf 3 p.toNat) s).toOutcome

/-- `PFX4` (R234). -/
def execPfx4 (p : BitVec 4) (s : State) : Host.Outcome State Fault Refusal :=
  (emitEntry 9 4 (entryOf 4 p.toNat) s).toOutcome

/-- `PFX5` (R235). -/
def execPfx5 (p : BitVec 5) (s : State) : Host.Outcome State Fault Refusal :=
  (emitEntry 11 5 (entryOf 5 p.toNat) s).toOutcome

/-- `PFX6` (R236). -/
def execPfx6 (p : BitVec 6) (s : State) : Host.Outcome State Fault Refusal :=
  (emitEntry 13 6 (entryOf 6 p.toNat) s).toOutcome

/-- `PFXZ` (R237): `PREFIX_CAP` zeros, no terminator, no payload, emits 0. -/
def execPfxz (s : State) : Host.Outcome State Fault Refusal := (emitEntry Params.prefixCap Params.prefixCap 0 s).toOutcome

end Sys2Proof.Machine
end

