-- ==== Sys2Proof/Machine/Glaze.lean ====
section
/-! DEFINITION. The Glaze Decompressor (spec/46_glaze.md): the header parse and the meaning of each opcode. A meaning
advances `TP` past the instruction's own table bytes, then fetches its stream operand, then copies (R253). -/

namespace Sys2Proof.Machine

/-- The 4-byte length prefix of a region at `pos`, if the prefix fits (R243). -/
def lengthPrefix (pos : Nat) (s : State) : Result Word :=
  if s.s2.tLen.toNat - pos < 4 then .raised .regionTooLarge s
  else readBuf32 pos s

/-- The header parse (R241 to R243) in the order of R245, on natural numbers; then the Code Table Builder's set-up
(R244, R220). -/
def parseHeader (s : State) : Result Unit :=
  let tLen := s.s2.tLen.toNat
  if tLen < 8 then .raised .regionTooLarge s
  else
    (readBuf32 0 s).andThen fun declared s =>
    (readBuf32 4 s).andThen fun lb s =>
    let s := { s with glz := { s.glz with declared := declared, lb := lb } }
    if declared ≠ s.expected then .raised .sizeMismatch s
    else if s.cfg.capOut < s.expected.toNat then .raised .allocationFailure s
    else if tLen - 8 < lb.toNat then .raised .regionTooLarge s
    else
      (lengthPrefix (8 + lb.toNat) s).andThen fun ld s =>
      let dict := 12 + lb.toNat
      let s := { s with glz := { s.glz with ld := ld } }
      if tLen - dict < ld.toNat then .raised .regionTooLarge s
      else
        let s := { s with glz := { s.glz with dictBase := BitVec.ofNat 32 dict } }
        (lengthPrefix (dict + ld.toNat) s).andThen fun lo s =>
        let ovf := dict + ld.toNat + 4
        let s := { s with glz := { s.glz with lo := lo } }
        if tLen - ovf < lo.toNat then .raised .regionTooLarge s
        else
          openTable ({ s with glz := { s.glz with ovfBase := BitVec.ofNat 32 ovf } }.enter .glzTab)

/-- `LIT` (R261). -/
def execLit (s : State) : Host.Outcome State Fault Refusal :=
  ((fetchDict (s.advanceTp 1)).andThen put).toOutcome

/-- `REP d` (R262). -/
def execRep (d : Byte) (s : State) : Host.Outcome State Fault Refusal :=
  (backref (dist2 d) repLen (s.advanceTp 2)).toOutcome

/-- `CPY d0, l0` (R263). -/
def execCpy (d0 l0 : Byte) (s : State) : Host.Outcome State Fault Refusal :=
  (backref (dist3 d0 l0) (copyLen l0) (s.advanceTp 3)).toOutcome

/-- `CPYD l0` (R264): `d0` from the dictionary stream. -/
def execCpyd (l0 : Byte) (s : State) : Host.Outcome State Fault Refusal :=
  ((fetchDict (s.advanceTp 2)).andThen fun d0 s => backref (dist4 d0 l0) (copyLen l0) s).toOutcome

/-- `CPYW dHi, l0` (R265): `dLo` from the dictionary stream. -/
def execCpyw (dHi l0 : Byte) (s : State) : Host.Outcome State Fault Refusal :=
  ((fetchDict (s.advanceTp 3)).andThen fun dLo s => backref (dist5 dHi l0 dLo) (copyLen l0) s).toOutcome

/-- `RUN l0` (R266). -/
def execRun (l0 : Byte) (s : State) : Host.Outcome State Fault Refusal :=
  (litrun (runLen l0) (s.advanceTp 2)).toOutcome

/-- `RUNX` (R267): `l0` from the length-overflow stream. -/
def execRunx (s : State) : Host.Outcome State Fault Refusal :=
  ((fetchOvf (s.advanceTp 1)).andThen fun l0 s => litrun (runxLen l0) s).toOutcome

end Sys2Proof.Machine
end

