-- ==== Sys2Proof/Machine/Dispatch.lean ====
section
/-! DEFINITION. Which meaning each instruction has: one arm per constructor of Instr. -/

namespace Sys2Proof.Machine

def exec (i : Instr) (s : State) : Host.Outcome State Fault Refusal :=
  match i with
  | .lit => Sys2Proof.Machine.execLit s
  | .rep d => Sys2Proof.Machine.execRep d s
  | .cpy d0 l0 => Sys2Proof.Machine.execCpy d0 l0 s
  | .cpyd l0 => Sys2Proof.Machine.execCpyd l0 s
  | .cpyw dHi l0 => Sys2Proof.Machine.execCpyw dHi l0 s
  | .run l0 => Sys2Proof.Machine.execRun l0 s
  | .runx => Sys2Proof.Machine.execRunx s
  | .pfx0 => Sys2Proof.Machine.execPfx0 s
  | .pfx1 p => Sys2Proof.Machine.execPfx1 p s
  | .pfx2 p => Sys2Proof.Machine.execPfx2 p s
  | .pfx3 p => Sys2Proof.Machine.execPfx3 p s
  | .pfx4 p => Sys2Proof.Machine.execPfx4 p s
  | .pfx5 p => Sys2Proof.Machine.execPfx5 p s
  | .pfx6 p => Sys2Proof.Machine.execPfx6 p s
  | .pfxz => Sys2Proof.Machine.execPfxz s

end Sys2Proof.Machine
end

