-- ==== Sys2Proof/Machine/Flags.lean ====
section
/-! DEFINITION. Conditions. The decoder keeps no arithmetic flag (spec/10_state.md R42): the only conditions a later
step tests are recomputed from data. Those that are more than a comparison at their place stand here. `EOS` (R43) is
an outcome of the reader, not a flag. -/

namespace Sys2Proof.Machine

/-- The Pass B condition `x mod FENCE >= floor(FENCE / 2)` (spec/42_stage1.md R173), on natural numbers. -/
def fenceCondition (x fence : Word) : Bool := decide (fence.toNat / 2 ≤ x.toNat % fence.toNat)

/-- The key switch is due: `COUNT = LENGTH[IDX] +_32 FUDGE` (spec/43_stage2.md R186). -/
def switchDue (count length fudge : Word) : Bool := count == length + fudge

/-- The checksum comparison's failure (R193), with the pairing of D18 as a parameter. -/
def checksumDiffers (highIsXor : Bool) (cx cs ckHigh ckLow : Word) : Bool :=
  if highIsXor then cx != ckHigh || cs != ckLow else cs != ckHigh || cx != ckLow

/-- The seeds a decode refuses: `FENCE = 0` or some `LENGTH[i] = 0` (spec/47_orchestrator.md R284). -/
def seedInvalid (seeds : SeedSet) : Bool :=
  seeds.fence == 0 || seeds.length.e0 == 0 || seeds.length.e1 == 0 || seeds.length.e2 == 0

end Sys2Proof.Machine
end

