-- ==== Sys2Proof/Machine/Prng.lean ====
section
/-! DEFINITION. The PRNG unit (spec/40_prng.md): a pure function of the register pair (R144). -/

namespace Sys2Proof.Machine

/-- `next()` (R141): `A <- M * A + 0x2F09` modulo 2^32, `M` unchanged. The value it returns is the new `A`. -/
def Prng.next (p : Prng) : Prng := { p with a := p.m * p.a + Params.increment }

/-- `draw15()` (R142): bits 30:16 of one `next()`. -/
def Prng.draw15 (p : Prng) : Word × Prng := ((p.next.a >>> Params.drawShift) &&& Params.draw15Mask, p.next)

/-- `draw8()` (R142): bits 23:16 of one `next()`. -/
def Prng.draw8 (p : Prng) : Byte × Prng :=
  (((p.next.a >>> Params.drawShift) &&& Params.draw8Mask).setWidth 8, p.next)

/-- `seed(m, a)` (R143): no draw is made. -/
def Prng.seed (m a : Word) : Prng := { m := m, a := a }

end Sys2Proof.Machine
end

