-- ==== Sys2Proof/Machine/Permutation.lean ====
section
/-! DEFINITION. The Bit Permutation Engine (spec/41_permutation.md R150 to R162). The contents of `POOL` and of the
index registers after a call are hidden state (spec/10_state.md R52, log 10). -/

namespace Sys2Proof.Machine

/-- Order-preserving removal of pool entry `x` of the first `remaining`: `POOL[q] <- POOL[q+1]` for `q` in
`x .. remaining-2`, every other cell as it was (R154, spec/90_conflicts.md C5). -/
def compact (pool : List Nat) (x remaining : Nat) : List Nat :=
  pool.take x ++ ((pool.drop (x + 1)).take (remaining - 1 - x) ++ pool.drop (remaining - 1))

/-- The draws of `build_order()` with that many pool entries remaining: the order entries drawn, the pool and the
PRNG after them. One draw per entry, also when one entry remains (R154). None if the pool lacks an entry. -/
def drawOrder : Nat → Prng → List Nat → Option (List Nat × List Nat × Prng)
  | 0, p, pool => some ([], pool, p)
  | r + 1, p, pool =>
    let x := p.draw15.1.toNat % (r + 1)
    match pool[x]? with
    | none => none
    | some e =>
      match drawOrder r p.draw15.2 (compact pool x (r + 1)) with
      | none => none
      | some (ord, pool', p') => some (e :: ord, pool', p')

/-- `build_order()` (R154) for `n` positions: the pool starts as 0, 1, …, n-1. -/
def buildOrder (n : Nat) (s : State) : Result Unit :=
  match drawOrder n s.prng (List.range n) with
  | none => .stuck (.noCell .pool n)
  | some (ord, pool, p) =>
    .ok () { s with ord := ord, pool := pool, prng := p, pe := { s.pe with j := BitVec.ofNat 35 n } }

/-- The mask of a bit index, by `PERM_BIT_LSB0` (spec/20_memory.md R72, D7). -/
def bitMask (lsb0 : Bool) (k : Nat) : Byte := if lsb0 then (1 : Byte) <<< k else (0x80 : Byte) >>> k

/-- The mask of the bit an order entry names (R158). -/
def State.maskOf (s : State) (e : Nat) : Byte := bitMask s.cfg.permBitLsb0 (e % 8)

/-- `PARTIAL_LIMIT(slice, rem)` (R156, D8). -/
def partialLimit (reading : PartialLimit) (slice rem : Nat) : Nat :=
  match reading with
  | .literal => min slice (rem * 8)
  | .bitsLeft => min (slice * 8) (rem * 8)

/-- `swap_bits(e0, e1)` (R158, R159) in the slice that starts `start` bytes into `BUF` and has `rem` bytes. -/
def swapBits (start rem e0 e1 : Nat) (s : State) : Result Unit :=
  if rem ≤ e0 / 8 ∨ rem ≤ e1 / 8 then .raised .bufferTooSmall s
  else
    (readBuf (start + e0 / 8) s).andThen fun v0 s =>
    (readBuf (start + e1 / 8) s).andThen fun v1 s =>
    if (v0 &&& s.maskOf e0 != 0) = (v1 &&& s.maskOf e1 != 0) then .ok () s
    else
      (writeBuf (start + e0 / 8) (v0 ^^^ s.maskOf e0) s).andThen fun _ s =>
      (readBuf (start + e1 / 8) s).andThen fun v1 s =>
      writeBuf (start + e1 / 8) (v1 ^^^ s.maskOf e1) s

/-- The pairs left to swap of the walk (R157), `i` the index of the next pair's first entry. -/
def walkFrom (start rem : Nat) : Nat → Nat → State → Result Unit
  | 0, i, s => .ok () { s with pe := { s.pe with i := BitVec.ofNat 35 i } }
  | pairs + 1, i, s =>
    match s.ord[i]?, s.ord[i + 1]? with
    | some e0, some e1 =>
      (swapBits start rem e0 e1 { s with pe := { s.pe with i := BitVec.ofNat 35 i } }).andThen fun _ s =>
      walkFrom start rem pairs (i + 2) s
    | _, _ => .stuck (.noCell .ord i)

/-- `participating(slice, rem)` (R156). -/
def participating (reading : PartialLimit) (slice rem : Nat) : Nat :=
  if slice ≤ rem then slice * 8 else partialLimit reading slice rem

/-- One slice (R153): build the order, count the participants, walk. `pos` is the slice's offset in the region. -/
def permuteSlice (base total slice pos : Nat) (s : State) : Result Unit :=
  (buildOrder (slice * 8)
    { s with pe := { s.pe with pos := BitVec.ofNat 32 pos, rem := BitVec.ofNat 32 (total - pos), j := 0, i := 0 } }).andThen
  fun _ s =>
  let count := participating s.cfg.partialLimit slice (total - pos)
  walkFrom (base + pos) (total - pos) (count / 2) 0 { s with pe := { s.pe with p := BitVec.ofNat 35 count } }

/-- The slice loop (R153) from offset `pos`; the first argument bounds the slices left. -/
def sliceLoop (base total slice : Nat) : Nat → Nat → State → Result Unit
  | 0, _, s => .ok () s
  | fuel + 1, pos, s =>
    if total ≤ pos then
      .ok () { s with pe := { s.pe with pos := BitVec.ofNat 32 pos } }
    else
      (permuteSlice base total slice pos s).andThen fun _ s => sliceLoop base total slice fuel (pos + slice) s

/-- `permute_chunks` (R150 to R153): entry checks, one seeding, the slices. Every slice moves on by at least one byte,
so `total + 1` rounds are enough. -/
def permuteChunks (base total slice : Nat) (m a : Word) (s : State) : Result Unit :=
  let s :=
    { s with
      pe :=
        { s.pe with
          base := BitVec.ofNat 32 base, total := BitVec.ofNat 32 total, slice := BitVec.ofNat 32 slice
          pos := 0, rem := BitVec.ofNat 32 total, n := BitVec.ofNat 35 (slice * 8) } }
  if slice * 8 < Params.minOrderBits then .raised .bufferTooSmall s
  else if s.cfg.capOrder < slice * 8 then .raised .allocationFailure s
  else sliceLoop base total slice (total + 1) 0 (s.setPrng (Prng.seed m a))

end Sys2Proof.Machine
end

