-- ==== Sys2Proof/Machine/Stage1.lean ====
section
/-! DEFINITION. The Stage-1 Descrambler (spec/42_stage1.md): Pass A, then Pass B (R170). -/

namespace Sys2Proof.Machine

/-- Pass A (R171): the last `min(PAY_LEN, 0x800)` bytes, slices counted from the region's first byte. -/
def passA (s : State) : Result Unit :=
  (permuteChunks (s.payLen.toNat - min s.payLen.toNat Params.s1Region) (min s.payLen.toNat Params.s1Region)
    Params.s1Slice Params.const s.seeds.main.e0 s).andThen fun _ s =>
  .ok () (s.enter .s1b)

/-- `word_transform` (R173) with the draw `x`: the conditional XOR first, then the subtraction modulo 2^16. -/
def wordTransform (x fence : Word) (w : Half) : Half :=
  (if fenceCondition x fence then w ^^^ x.setWidth 16 else w) - x.setWidth 16

/-- One word of Pass B (R172): read big-endian, transform with one draw, store big-endian. -/
def passBWord (k : Nat) (s : State) : Result Unit :=
  (readBuf (2 * k) s).andThen fun b0 s =>
  (readBuf (2 * k + 1) s).andThen fun b1 s =>
  let w := wordTransform s.prng.draw15.1 s.seeds.fence (word16 b0 b1)
  (writeBuf (2 * k) (w.extractLsb' 8 8) (s.setPrng s.prng.draw15.2)).andThen fun _ s =>
  writeBuf (2 * k + 1) (w.extractLsb' 0 8) s

/-- The words of Pass B from word `k` on, in increasing order. -/
def passBFrom : Nat → Nat → State → Result Unit
  | 0, _, s => .ok () s
  | words + 1, k, s => (passBWord k s).andThen fun _ s => passBFrom words (k + 1) s

/-- Pass B (R172): a fresh seeding and `floor(PAY_LEN / 2)` words; a last odd byte is in no word. -/
def passB (s : State) : Result Unit :=
  (passBFrom (s.payLen.toNat / 2) 0 (s.setPrng (Prng.seed Params.const s.seeds.main.e1))).andThen fun _ s =>
  .ok () (s.enter .s2Tail)

end Sys2Proof.Machine
end

