-- ==== Sys2Proof/Machine/Stage2.lean ====
section
/-! DEFINITION. The Stage-2 Descrambler (spec/43_stage2.md R180 to R198). -/

namespace Sys2Proof.Machine

/-- The start values of the unit's registers (spec/10_state.md R48), the precondition (R181) and step 1 (R182): the
three tail words, each the last word at its moment. -/
def readTail (s : State) : Result Unit :=
  let pl := s.payLen.toNat
  let s :=
    { s with
      s2 :=
        { s.s2 with
          len := s.payLen, idx := 0, fudge := 0, count := 0, cx := s.cfg.ckInit.1, cs := s.cfg.ckInit.2 } }
  if pl % 4 ≠ 0 ∨ pl < Params.s2MinLen then .raised .bufferTooSmall s
  else
    (readBuf32 (pl - 4) s).andThen fun aux s =>
    (readBuf32 (pl - 8) s).andThen fun high s =>
    (readBuf32 (pl - 12) s).andThen fun low s =>
    .ok () ({ s with
      s2 := { s.s2 with len := BitVec.ofNat 32 (pl - 12), aux := aux, ckHigh := high, ckLow := low } }.enter .s2Scan)

/-- The sentinel scan (R183) below offset `i`, downward: the offset of the first `0xFF` met. -/
def scanBelow : Nat → State → Result Nat
  | 0, s => .raised .missingEndMarker s
  | i + 1, s => (readBuf i s).andThen fun b s => if b = Params.sentinel then .ok i s else scanBelow i s

/-- Step 2 (R183). -/
def scanSentinel (s : State) : Result Unit :=
  (scanBelow s.s2.len.toNat s).andThen fun i s =>
  .ok () ({ s with s2 := { s.s2 with marker := BitVec.ofNat 32 i } }.enter .s2Xor)

/-- The index after a key switch: one more, 0 again at `TABLE_RING` (R186). -/
def nextIdx (idx : Fin Params.tableRing) : Fin Params.tableRing :=
  if h : idx.val + 1 < Params.tableRing then ⟨idx.val + 1, h⟩ else 0

/-- `rotate_if_due()` (R186): stash, advance, reseed the accumulator alone, restart the count. -/
def rotateIfDue (s : State) : State :=
  if switchDue s.s2.count (s.seeds.length.get s.s2.idx) s.s2.fudge then
    let table := s.seeds.table.set s.s2.idx s.prng.a
    let idx := nextIdx s.s2.idx
    { s with
      seeds := { s.seeds with table := table }
      prng := { s.prng with a := table.get idx }
      s2 :=
        { s.s2 with
          idx := idx, fudge := if idx = 0 then s.s2.fudge + 1 else s.s2.fudge, count := 0 } }
  else s

/-- One byte of step 3 (R185): XOR with one `draw8`, count, switch if due. -/
def xorByte (i : Nat) (s : State) : Result Unit :=
  (readBuf i s).andThen fun b s =>
  (writeBuf i (b ^^^ s.prng.draw8.1) (s.setPrng s.prng.draw8.2)).andThen fun _ s =>
  .ok () (rotateIfDue { s with s2 := { s.s2 with count := s.s2.count + 1 } })

/-- The bytes of step 3 from offset `i` on, in increasing order. -/
def xorFrom : Nat → Nat → State → Result Unit
  | 0, _, s => .ok () s
  | bytes + 1, i, s => (xorByte i s).andThen fun _ s => xorFrom bytes (i + 1) s

/-- Step 3 (R184, R185): the seeding, then the bytes below the marker. -/
def xorDecode (s : State) : Result Unit :=
  (xorFrom s.s2.marker.toNat 0
    { s with
      prng := Prng.seed (s.s2.aux + s.cfg.s2AddConst) s.seeds.table.e0
      s2 := { s.s2 with idx := 0, fudge := 0, count := 0 } }).andThen fun _ s =>
  .ok () (s.enter .s2Ck)

/-- The truncated length `MARKER - (MARKER mod 4)` (R191). -/
def truncatedLen (marker : Word) : Nat := marker.toNat - marker.toNat % 4

/-- One word of the two folds (R192). -/
def foldWord (cx cs w : Word) : Word × Word := (cx ^^^ ~~~w, cs - w)

/-- The folds over the words from word `j` on (R192). -/
def foldFrom : Nat → Nat → State → Result Unit
  | 0, _, s => .ok () s
  | words + 1, j, s =>
    (readBuf32 (4 * j) s).andThen fun w s =>
    foldFrom words (j + 1)
      { s with s2 := { s.s2 with cx := (foldWord s.s2.cx s.s2.cs w).1, cs := (foldWord s.s2.cx s.s2.cs w).2 } }

/-- Step 4 (R190 to R193): zero the marker, truncate, fold, compare. -/
def checksum (s : State) : Result Unit :=
  (writeBuf s.s2.marker.toNat 0 s).andThen fun _ s =>
  (foldFrom (truncatedLen s.s2.marker / 4) 0
    { s with
      s2 :=
        { s.s2 with
          tLen := BitVec.ofNat 32 (truncatedLen s.s2.marker), cx := s.cfg.ckInit.1, cs := s.cfg.ckInit.2 } }).andThen
  fun _ s =>
  if checksumDiffers s.cfg.ckHighIsXor s.s2.cx s.s2.cs s.s2.ckHigh s.s2.ckLow then .raised .checksumMismatch s
  else .ok () (s.enter .s2Perm)

/-- Step 5 (R194): the permutation of the first `min(T_LEN, 0x800)` bytes. -/
def permuteLeading (s : State) : Result Unit :=
  (permuteChunks 0 (min s.s2.tLen.toNat Params.s2Region) Params.s2Slice Params.const s.seeds.main.e2 s).andThen
  fun _ s => .ok () (s.enter .glzHdr)

end Sys2Proof.Machine
end

