-- ==== Sys2Proof/Machine/Orchestrator.lean ====
section
/-! DEFINITION. The Pipeline Orchestrator's own checks (spec/47_orchestrator.md R281 to R284, R287) and the host's
actions (spec/10_state.md R55, spec/70_reset_and_hazards.md R345, R346). -/

namespace Sys2Proof.Machine

/-- `PHASE = HDR` (R281, R282). `HDR[8..15]` is not read (spec/30_encoding.md R101). -/
def checkHeader (s : State) : Result Unit :=
  if s.cfg.capIn < s.nIn.toNat then .raised .allocationFailure s
  else if s.nIn.toNat < Params.headerLen then .raised .invalidHeader s
  else
    (readHdr32 0 s).andThen fun tag s =>
    if tag ≠ Params.typeTag then .raised .invalidHeader s
    else
      (readHdr32 4 s).andThen fun expected s =>
      .ok () ({ s with expected := expected, payLen := s.nIn - BitVec.ofNat 32 Params.headerLen }.enter .seedchk)

/-- `PHASE = SEEDCHK` (R284). -/
def checkSeeds (s : State) : Result Unit :=
  if seedInvalid s.seeds then .raised .invalidSeed s else .ok () (s.enter .s1a)

/-- The end of the Glaze loop (R287, spec/46_glaze.md R246). -/
def State.finish (s : State) : State := { s with status := .done, phase := .finished }

/-- `start` (R55): the entities a decode creates are fresh (R61), so the memories it writes hold nothing yet
(log 7). -/
def State.start (s : State) : State :=
  { s with status := .busy, err := 0, phase := .hdr, pool := [], ord := [], tab := [], out := [] }

/-- The container is written (R55, R80): bytes 0 to 15 are `HDR`, the rest is `BUF` (log 7). -/
def State.loadContainer (bytes : List Byte) (s : State) : State :=
  { s with
    nIn := BitVec.ofNat 32 bytes.length
    hdr := Memory.ofBytes 0 (bytes.take Params.headerLen)
    buf := Memory.ofBytes 0 (bytes.drop Params.headerLen) }

/-- The ten SeedSet registers are written (R55). -/
def State.loadSeeds (seeds : SeedSet) (s : State) : State := { s with seeds := seeds }

/-- `TABLE[0..2]` is written (R350). -/
def State.loadTable (table : Triple) (s : State) : State := { s with seeds := { s.seeds with table := table } }

/-- One action of the host. A container that `N_IN` cannot count is refused (log 8). -/
def hostAct (a : HostAction) (s : State) : Host.Outcome State Fault Refusal :=
  match a with
  | .loadContainer bytes =>
    if bytes.length < 4294967296 then .next (s.loadContainer bytes) else .refused .containerTooLong
  | .loadSeeds seeds => .next (s.loadSeeds seeds)
  | .loadTable table => .next (s.loadTable table)
  | .start => .next s.start

/-- The host's next request, or nothing to do: the decoder stays as it is (log 4). -/
def hostStep (s : State) : Host.Outcome State Fault Refusal :=
  match s.host with
  | [] => .next s
  | a :: rest => hostAct a { s with host := rest }

/-- What `collect` gives the host (R55, R57). -/
inductive Collected where
  /-- `IDLE` or `BUSY`: nothing to collect. -/
  | nothing
  /-- `DONE`: the output bytes, where every one of them is written. -/
  | output (bytes : Option (List Byte))
  /-- `FAILED`: the code in `ERR`, and no byte of `OUT` (spec/60_exceptions.md R304). -/
  | failure (code : BitVec 4)
  deriving DecidableEq, Repr

/-- `collect` (R55, R287, R304): `OUT[0 .. EXPECTED-1]` only in `DONE`, `ERR` only in `FAILED`. -/
def State.collect (s : State) : Collected :=
  match s.status with
  | .done => .output (s.out.bytes 0 s.expected.toNat)
  | .failed => .failure s.err
  | .idle => .nothing
  | .busy => .nothing

end Sys2Proof.Machine
end

