-- ==== Sys2Proof/Machine/Fetch.lean ====
section
/-! DEFINITION. Fetching the next instruction: the bytes of `TAB` at `TP` (spec/46_glaze.md R247, R268), or the bits of
the next codeword (spec/45_code_table.md R222), given to the decoders of Decode.lean. The instruction found runs from
the state before the fetch: its meaning moves the cursors past its own words. -/

namespace Sys2Proof.Machine

/-- What a fetch comes to: an instruction, or the end of the matter without one. -/
inductive Fetched where
  | run (i : Instr)
  | over (r : Result Unit)

/-- `n` table operand bytes, in fetch order (R253). -/
def fetchOperands : Nat → State → Result (List Byte)
  | 0, s => .ok [] s
  | n + 1, s =>
    (fetchTab s).andThen fun v s =>
    (fetchOperands n s).andThen fun vs s => .ok (v :: vs) s

/-- The bytes of the next Glaze instruction: the opcode byte, then as many operands as it takes (R112). -/
def fetchGlazeBytes (s : State) : Result (List Byte) :=
  (fetchTab s).andThen fun op s =>
  (fetchOperands (tabOperands op) s).andThen fun vs s => .ok (op :: vs) s

/-- The next Glaze instruction. An opcode byte outside 1..7 raises `IllegalOpcode`, with `TP` past it (R268); a table
that ends first raises `DecodeOverflow`, with `TP` past what was fetched (R247). -/
def fetchGlaze (s : State) : Fetched :=
  match fetchGlazeBytes s with
  | .ok bytes t =>
    match decodeTab bytes with
    | .ok (i, _) => .run i
    | .error (.illegalOpcode _) => .over (.raised .illegalOpcode t)
    | .error .tableEnds => .over (.raised .decodeOverflow t)
    | .error .bitsEnd => .over (.raised .decodeOverflow t)
  | .raised k t => .over (.raised k t)
  | .stuck f => .over (.stuck f)

/-- `CODE_LEN <- CODE_LEN + 1` (R222). -/
def State.countZero (s : State) : State := { s with ct := { s.ct with codeLen := s.ct.codeLen + 1 } }

/-- The prefix of a codeword: bits up to the first 1, at most as many zeros as the first argument says, counted in
`CODE_LEN` (R222). The bits read, in order. -/
def fetchPrefix : Nat → State → Result (Option (List Bool))
  | 0, s => .ok (some []) s
  | n + 1, s =>
    (readBit s).andThen fun b s =>
    match b with
    | none => .ok none s
    | some true => .ok (some [true]) s
    | some false => (fetchPrefix n s.countZero).andThen fun bs s => .ok (bs.map (fun l => false :: l)) s

/-- The bits of the next codeword, no more than it has: the prefix and, if a 1 ended it, `CODE_LEN` payload bits
(R222, R223). `none` if the stream ends inside it (R225). -/
def fetchCodewordBits (s : State) : Result (Option (List Bool)) :=
  (fetchPrefix Params.prefixCap { s with ct := { s.ct with codeLen := 0 } }).andThen fun pre s =>
  match pre with
  | none => .ok none s
  | some pre =>
    if pre.length = Params.prefixCap ∧ true ∉ pre then .ok (some pre) s
    else (takeBits s.ct.codeLen.toNat s).andThen fun pay s => .ok (pay.map (fun l => pre ++ l)) s

/-- The next codeword. At the end of the stream the entry is not emitted and the table is short (R225). -/
def fetchCodeword (s : State) : Fetched :=
  match fetchCodewordBits s with
  | .ok (some bits) t =>
    match decodeBits bits with
    | .ok (i, _) => .run i
    | .error _ => .over (.ok () t.closeTable)
  | .ok none t => .over (.ok () t.closeTable)
  | .raised k t => .over (.raised k t)
  | .stuck f => .over (.stuck f)

end Sys2Proof.Machine
end

