-- ==== Sys2Proof/Machine/Step.lean ====
section
/-! DEFINITION. One step: the unit that `PHASE` names while `BUSY` (spec/47_orchestrator.md R285), else the host's next
request (log 1, log 4). -/

namespace Sys2Proof.Machine

/-- A step runs the instruction a fetch found. -/
def Fetched.go (f : Fetched) (s : State) : Host.Outcome State Fault Refusal :=
  match f with
  | .run i => exec i s
  | .over r => r.toOutcome

/-- A step of a running decode (R285). A phase of its own ends a decode together with `STATUS` (R287): `BUSY` in `END`
is no state of a run, and nothing happens in it (log 15). -/
def busyStep (s : State) : Host.Outcome State Fault Refusal :=
  match s.phase with
  | .hdr => (checkHeader s).toOutcome
  | .seedchk => (checkSeeds s).toOutcome
  | .s1a => (passA s).toOutcome
  | .s1b => (passB s).toOutcome
  | .s2Tail => (readTail s).toOutcome
  | .s2Scan => (scanSentinel s).toOutcome
  | .s2Xor => (xorDecode s).toOutcome
  | .s2Ck => (checksum s).toOutcome
  | .s2Perm => (permuteLeading s).toOutcome
  | .glzHdr => (parseHeader s).toOutcome
  | .glzTab => if s.ct.tcount < s.ct.tlen then (fetchCodeword s).go s else .next s.closeTable
  | .glzRun => if s.glz.wp < s.expected then (fetchGlaze s).go s else .next s.finish
  | .finished => .next s

/-- One step of the machine. -/
def step (s : State) : Host.Outcome State Fault Refusal :=
  match s.status with
  | .busy => busyStep s
  | .idle => hostStep s
  | .done => hostStep s
  | .failed => hostStep s

/-- The state in which a word of the opcode table is the next instruction: a Glaze opcode byte and zeros in `TAB` at
`TP = 0`, or a codeword and zeros as the packed bytes the reader takes next (log 13). -/
def State.withFetchWord (s : State) (nbits w : Nat) : State :=
  if tableWordIsGlaze nbits w then
    { s with
      status := .busy, err := 0, phase := .glzRun
      tab := s.tab.writeBytes 0 (glazeTableBytes nbits w)
      ct := { s.ct with tcount := 3 }
      expected := if s.glz.wp < s.expected then s.expected else 1
      glz := { s.glz with tp := 0, wp := if s.glz.wp < s.expected then s.glz.wp else 0 } }
  else
    { s with
      status := .busy, err := 0, phase := .glzTab
      payLen := if s.payLen < 2 then 2 else s.payLen
      buf := s.buf.writeBytes 0 (codewordTableBytes nbits w)
      br := { s.br with base := 0, len := 2, cur := 0, mask := 0 }
      ct :=
        { s.ct with
          tlen := if s.ct.tcount < s.ct.tlen then s.ct.tlen else 1
          tcount := if s.ct.tcount < s.ct.tlen then s.ct.tcount else 0 } }

end Sys2Proof.Machine
end

