-- ==== Sys2Proof/Safety.lean ====
section
/-! DEFINITION. What a safe run of the decoder is: the invariant that every step keeps, in the terms the spec's own
rules use, and the names that statements use for a reader or a stream that has enough left. -/

namespace Sys2Proof.Machine

/-- Every cell below `n` holds a value: the written range of a space (spec/10_state.md R60). -/
def Memory.Covers (m : Memory) (n : Nat) : Prop := ∀ a, a < n → (m.read a).isSome = true

/-- The place of a phase in the order of spec/47_orchestrator.md R285. -/
def Phase.rank : Phase → Nat
  | .hdr => 0
  | .seedchk => 1
  | .s1a => 2
  | .s1b => 3
  | .s2Tail => 4
  | .s2Scan => 5
  | .s2Xor => 6
  | .s2Ck => 7
  | .s2Perm => 8
  | .glzHdr => 9
  | .glzTab => 10
  | .glzRun => 11
  | .finished => 12

/-- `PHASE` has come at least as far as `ph` in a decode that runs. -/
def State.running (s : State) (ph : Phase) : Prop := s.status = .busy ∧ ph.rank ≤ s.phase.rank

/-- The mask of the Bitstream Reader: 0 or one of the eight positions (spec/44_bitstream.md R210). -/
def Reader.maskLegal (r : Reader) : Prop :=
  r.mask = 0 ∨ ∃ k, k < 8 ∧ r.mask = (1 : Byte) <<< k

/-- The number of bits of the held byte not yet delivered (R210): those at and below the mask. -/
def Reader.held (r : Reader) : Nat := if r.mask = 0 then 0 else r.mask.toNat.log2 + 1

/-- The number of bits the reader has yet to deliver. -/
def Reader.left (r : Reader) : Nat := r.held + 8 * (r.len.toNat - r.cur.toNat)

/-- The reader can deliver `n` more bits: it is in a legal position, `n` bits are left, and the bytes it has yet to load
are in `BUF`. -/
structure State.CanRead (s : State) (n : Nat) : Prop where
  mask : s.br.maskLegal
  cursor : s.br.cur ≤ s.br.len
  enough : n ≤ s.br.left
  bytes : ∀ j, s.br.cur.toNat ≤ j → j < s.br.len.toNat → (s.bufAt (s.br.base.toNat + j)).isSome = true

/-- The dictionary stream holds the bytes `lits` at its cursor. -/
def State.DictHolds (s : State) (lits : List Byte) : Prop :=
  s.glz.dp.toNat + lits.length ≤ s.glz.ld.toNat ∧
    ∀ j, j < lits.length → s.bufAt (s.dictAddr + j) = lits[j]?

/-- The bit that order entry `e` of a slice at `start` names (spec/41_permutation.md R158, spec/20_memory.md R72). -/
def State.bitAt (s : State) (start e : Nat) : Option Bool :=
  (s.bufAt (start + e / 8)).map (fun b => if s.cfg.permBitLsb0 then b.getLsbD (e % 8) else b.getMsbD (e % 8))

/-- In the slice at `start`, the bits of the entries `ord[0]` and `ord[1]`, `ord[2]` and `ord[3]`, … below entry `p` have
changed places from `s` to `t` (R157, R158). -/
def PairsSwapped (s t : State) (start : Nat) (ord : List Nat) (p : Nat) : Prop :=
  ∀ i e0 e1, 2 * i + 1 < p → ord[2 * i]? = some e0 → ord[2 * i + 1]? = some e1 →
    t.bitAt start e0 = s.bitAt start e1 ∧ t.bitAt start e1 = s.bitAt start e0

/-- `FAILED` with an error code, all else as it was (spec/60_exceptions.md R301). -/
def State.failWith (code : BitVec 4) (s : State) : State := { s with status := .failed, err := code }

/-- An outcome is a fault taken: the next state `t` is `FAILED` with the code. -/
def Faults (o : Host.Outcome State Fault Refusal) (code : BitVec 4) (t : State) : Prop :=
  o = .next t ∧ t.status = .failed ∧ t.err = code

/-- The header parse of `s` ends in a fault in the phase `ph`, and no byte of `OUT` is written (spec/46_glaze.md R242). -/
def ParseFaults (s : State) (code : BitVec 4) (ph : Phase) : Prop :=
  ∃ t, Faults (step s) code t ∧ t.phase = ph ∧ t.out = s.out

/-- The state in which step 3 of Stage-2 draws its first key byte (spec/43_stage2.md R184). -/
def State.keySeed (s : State) : State :=
  { s with
    prng := Prng.seed (s.s2.aux + s.cfg.s2AddConst) s.seeds.table.e0
    s2 := { s.s2 with idx := 0, fudge := 0, count := 0 } }

/-- The key registers after one more key byte, whatever the byte decoded (R185, R186). -/
def State.keyStep (s : State) : State :=
  rotateIfDue { s with prng := s.prng.draw8.2, s2 := { s.s2 with count := s.s2.count + 1 } }

/-- The key byte of offset `i` (R185). -/
def State.keyByte (s : State) (i : Nat) : Byte := (State.keyStep^[i] s.keySeed).prng.draw8.1

/-- The XOR of some words (R192). -/
def xorWords (ws : List Word) : Word := ws.foldl (fun x w => x ^^^ w) 0

/-- The sum of some words modulo 2^32 (R192). -/
def sumWords (ws : List Word) : Word := ws.foldl (fun x w => x + w) 0

/-- The closed form of `CX` over some words (R192). -/
def closedCx (ws : List Word) : Word := xorWords ws ^^^ (if ws.length % 2 = 1 then BitVec.allOnes 32 else 0)

/-- The closed form of `CS` over some words (R192). -/
def closedCs (ws : List Word) : Word := 0 - sumWords ws

/-- The big-endian words of `BUF` from offset 0 on are `ws`. -/
def State.WordsAre (s : State) (ws : List Word) : Prop := ∀ j, j < ws.length → read32 s.bufAt (4 * j) = ws[j]?

/-- The entry a codeword decodes to; a Glaze instruction has none (spec/30_encoding.md R110). -/
def entryValue : Instr → Option Byte
  | .lit => none
  | .rep _ => none
  | .cpy _ _ => none
  | .cpyd _ => none
  | .cpyw _ _ => none
  | .run _ => none
  | .runx => none
  | .pfx0 => some 0x01
  | .pfx1 p => some (0x02 ||| p.setWidth 8)
  | .pfx2 p => some (0x04 ||| p.setWidth 8)
  | .pfx3 p => some (0x08 ||| p.setWidth 8)
  | .pfx4 p => some (0x10 ||| p.setWidth 8)
  | .pfx5 p => some (0x20 ||| p.setWidth 8)
  | .pfx6 p => some (0x40 ||| p.setWidth 8)
  | .pfxz => some 0x00

/-- A codeword of pattern `word` completes wherever its bits can be read: the reader moves past them, the entry `v` is
written at `TCOUNT`, `TCOUNT` grows by one, `CODE_LEN` is `k`, and nothing else changes. -/
def EmitsEntry (i : Instr) (word : List Bool) (k : Nat) (v : Byte) : Prop :=
  encode i = .bits word ∧
    ∀ s : State, s.CanRead word.length →
      ∃ br : Reader, br.base = s.br.base ∧ br.len = s.br.len ∧ br.left + word.length = s.br.left ∧
        exec i s =
          .next
            { s with
              br := br
              tab := s.tab.write s.ct.tcount.toNat v
              ct := { s.ct with tcount := s.ct.tcount + 1, codeLen := BitVec.ofNat 3 k } }

/-- A copy of `len` bytes from `dist` back has gone on from `s` (spec/46_glaze.md R251): `out` holds the last `dist`
bytes again and again from `WP` on, and reads as before everywhere else. -/
def Copied (s : State) (dist len : Nat) (out : Memory) : Prop :=
  (∀ j, j < len → out.read (s.glz.wp.toNat + j) = s.out.read (s.glz.wp.toNat - dist + j % dist)) ∧
    ∀ x, (x < s.glz.wp.toNat ∨ s.glz.wp.toNat + len ≤ x) → out.read x = s.out.read x

/-- The bytes `lits` stand at `WP` on, and `out` reads as before everywhere else (R252). -/
def Appended (s : State) (lits : List Byte) (out : Memory) : Prop :=
  (∀ j, j < lits.length → out.read (s.glz.wp.toNat + j) = lits[j]?) ∧
    ∀ x, (x < s.glz.wp.toNat ∨ s.glz.wp.toNat + lits.length ≤ x) → out.read x = s.out.read x

/-- A back-reference is inside what is written, and the destination has room for it (R250, R251). -/
def State.CanCopy (s : State) (dist len : Nat) : Prop :=
  1 ≤ dist ∧ dist ≤ s.glz.wp.toNat ∧ s.glz.wp.toNat + len ≤ s.expected.toNat ∧ s.out.Covers s.glz.wp.toNat

/-- A back-reference is inside what is written, and the destination has less room than it needs (R250). -/
def State.NoRoom (s : State) (dist len : Nat) : Prop :=
  1 ≤ dist ∧ dist ≤ s.glz.wp.toNat ∧ s.glz.wp ≤ s.expected ∧ s.expected.toNat < s.glz.wp.toNat + len ∧
    s.out.Covers s.glz.wp.toNat

/-- A literal run can copy exactly `lits`: then the dictionary is exhausted, or its next byte finds no room (R252). -/
def State.RunEnds (s : State) (lits : List Byte) : Prop :=
  s.DictHolds lits ∧ s.glz.wp.toNat + lits.length ≤ s.expected.toNat ∧
    (s.glz.dp.toNat + lits.length = s.glz.ld.toNat ∨
      (s.glz.wp.toNat + lits.length = s.expected.toNat ∧ (s.bufAt (s.dictAddr + lits.length)).isSome = true))

/-- The four memories are in canonical form. -/
structure State.MemoriesWf (s : State) : Prop where
  hdr : s.hdr.wf
  buf : s.buf.wf
  tab : s.tab.wf
  out : s.out.wf

/-- The invariant of every run. -/
structure State.Inv (s : State) : Prop where
  memories : s.MemoriesWf
  /-- The error codes are legal, which no step changes (spec/10_state.md R45). -/
  legal : s.cfg.codes.legal
  /-- `ERR` holds a code in `FAILED`, and 0 otherwise (spec/60_exceptions.md R300, R301). -/
  codes : if s.status = .failed then s.err ∈ s.cfg.codes.all else s.err = 0
  /-- `TAB` entries lie in 0..127 (spec/10_state.md R51). -/
  entries : ∀ c ∈ s.tab, c.2.toNat < 128
  /-- The container is loaded as far as `N_IN` says. -/
  loaded : s.hdr.Covers (min 16 s.nIn.toNat) ∧ s.buf.Covers (s.nIn.toNat - 16)
  /-- A decode that runs is not at `END`. -/
  active : s.status = .busy → s.phase ≠ .finished
  /-- The header check has passed (spec/47_orchestrator.md R281, R282). -/
  payload : s.running .seedchk → 16 ≤ s.nIn.toNat ∧ s.payLen.toNat = s.nIn.toNat - 16
  /-- The seed check has passed (R284). -/
  seeds : s.running .s1a → seedInvalid s.seeds = false
  /-- The tail has been read (spec/43_stage2.md R182). -/
  tail : s.running .s2Scan → 16 ≤ s.payLen.toNat ∧ s.s2.len.toNat = s.payLen.toNat - 12
  /-- The sentinel has been found (R183). -/
  marker : s.running .s2Xor → s.s2.marker.toNat < s.payLen.toNat
  /-- The decoded length has been truncated (R191). -/
  truncated : s.running .s2Perm → s.s2.tLen.toNat ≤ s.s2.marker.toNat
  /-- The two byte streams lie inside the payload (spec/46_glaze.md R243). -/
  streams : s.running .glzTab →
    s.glz.dictBase.toNat + s.glz.ld.toNat ≤ s.payLen.toNat ∧
      s.glz.ovfBase.toNat + s.glz.lo.toNat ≤ s.payLen.toNat
  /-- The entries emitted so far are written (spec/45_code_table.md R221). -/
  table : s.running .glzTab → s.tab.Covers s.ct.tcount.toNat
  /-- The reader is inside its region and the table not beyond its declared length. -/
  reader : s.status = .busy → s.phase = .glzTab →
    s.br.base.toNat + s.br.len.toNat ≤ s.payLen.toNat ∧ s.br.cur ≤ s.br.len ∧ s.br.maskLegal ∧
      s.ct.tcount ≤ s.ct.tlen
  /-- No cursor is past its bound, and `OUT` is written below `WP` (spec/46_glaze.md R246 to R250). -/
  cursors : s.status = .busy → s.phase = .glzRun →
    s.glz.tp ≤ s.ct.tcount ∧ s.glz.dp ≤ s.glz.ld ∧ s.glz.lp ≤ s.glz.lo ∧ s.glz.wp ≤ s.expected ∧
      s.out.Covers s.glz.wp.toNat
  /-- The whole output is there in `DONE` (spec/47_orchestrator.md R287). -/
  output : s.status = .done → s.out.Covers s.expected.toNat

end Sys2Proof.Machine
end

