-- ==== Sys2Proof/Certificates/Slice0/Obligations.lean ====
section
/-! DEFINITION. The statements for the provers, in the order of the spec's files. -/

open Sys2Proof Sys2Proof.Machine

/-! ## The PRNG (spec/40_prng.md) -/

/-- R141: `next()` stores and returns `M * A + 0x2F09` modulo 2^32 and leaves `M`. -/
def Obligations.PrngNextIsTheLcg : Prop :=
  ∀ p : Prng, p.next.a.toNat = (p.m.toNat * p.a.toNat + 0x2F09) % 2 ^ 32 ∧ p.next.m = p.m

/-- R142: `draw15` is bits 30:16 and `draw8` bits 23:16 of exactly one `next()`. -/
def Obligations.DrawsAreTheTopBits : Prop :=
  ∀ p : Prng,
    p.draw15.1.toNat = p.next.a.toNat / 2 ^ 16 % 2 ^ 15 ∧ p.draw15.2 = p.next ∧
      p.draw8.1.toNat = p.next.a.toNat / 2 ^ 16 % 2 ^ 8 ∧ p.draw8.2 = p.next

/-! ## The Bit Permutation Engine (spec/41_permutation.md) -/

/-- R154: the order array is a permutation of 0 .. n-1, as the spec infers in R155 "from rule R154", built with
exactly `n` draws and touching no byte; entry `j` is the `x`-th smallest position not yet drawn, `x` the `j`-th draw
mod `n - j`. -/
def Obligations.OrderArrayIsAPermutation : Prop :=
  ∀ (n : Nat) (s : State), ∃ t, buildOrder n s = .ok () t ∧ t.ord.Perm (List.range n) ∧
    t.prng = Prng.next^[n] s.prng ∧ t.buf = s.buf ∧
    ∀ j, j < n →
      t.ord[j]? =
        ((List.range n).filter (fun e => e ∉ t.ord.take j))[(Prng.next^[j] s.prng).draw15.1.toNat % (n - j)]?

/-- R151, R153: the entry checks come first, before the PRNG is seeded and before a byte is touched; an empty region
takes no slice, so the PRNG is seeded, no draw is made and no byte changes. -/
def Obligations.PermuteChecksItsSliceFirst : Prop :=
  ∀ (base total slice : Nat) (m a : Word) (s : State),
    (slice = 0 → ∃ t, permuteChunks base total slice m a s = .raised .bufferTooSmall t ∧
      t.prng = s.prng ∧ t.buf = s.buf) ∧
    (slice ≠ 0 → s.cfg.capOrder < slice * 8 →
      ∃ t, permuteChunks base total slice m a s = .raised .allocationFailure t ∧
        t.prng = s.prng ∧ t.buf = s.buf) ∧
    (slice ≠ 0 → slice * 8 ≤ s.cfg.capOrder → total = 0 →
      ∃ t, permuteChunks base total slice m a s = .ok () t ∧ t.prng = Prng.seed m a ∧ t.buf = s.buf)

/-- R150: no byte outside the region is written, whether the call succeeds or faults. -/
def Obligations.PermuteTouchesOnlyItsRegion : Prop :=
  ∀ (base total slice : Nat) (m a : Word) (s t : State),
    (permuteChunks base total slice m a s).Leaves t →
      ∀ x, (x < base ∨ base + total ≤ x) → t.buf.read x = s.buf.read x

/-- R158, R159: a swap exchanges the two bits its entries name and moves no other bit; an entry at or beyond the end of
the region raises `BufferTooSmall` and swaps nothing. -/
def Obligations.SwapExchangesTwoBits : Prop :=
  ∀ (start rem e0 e1 : Nat) (s : State),
    (e0 ≠ e1 → e0 / 8 < rem → e1 / 8 < rem →
      (s.bufAt (start + e0 / 8)).isSome = true → (s.bufAt (start + e1 / 8)).isSome = true →
        ∃ t, swapBits start rem e0 e1 s = .ok () t ∧
          t.bitAt start e0 = s.bitAt start e1 ∧ t.bitAt start e1 = s.bitAt start e0 ∧
          (∀ e, e ≠ e0 → e ≠ e1 → t.bitAt start e = s.bitAt start e) ∧
          t = { s with buf := t.buf }) ∧
    ((rem ≤ e0 / 8 ∨ rem ≤ e1 / 8) → swapBits start rem e0 e1 s = .raised .bufferTooSmall s)

/-- R153, R154, R156, R157, R159. A region of whole slices never faults; the call makes `8 * slice` draws for each
slice, as the spec infers in R145 and R161, and in each slice the bits of its order array's entries change places pair
by pair, the order going on from slice to slice (R152). A region that is one partial slice faults exactly when a
participating entry names a byte at or beyond its end; else its participating pairs change places and no other bit
moves. That a second reading of `PARTIAL_LIMIT` can be configured is the model's choice (log 21). -/
def Obligations.WholeSlicesNeverFault : Prop :=
  (∀ (base total slice : Nat) (m a : Word) (s : State), slice ≠ 0 → slice * 8 ≤ s.cfg.capOrder →
    total % slice = 0 → (∀ j, j < total → (s.bufAt (base + j)).isSome = true) →
      ∃ t, permuteChunks base total slice m a s = .ok () t ∧
        t.prng = Prng.next^[slice * 8 * (total / slice)] (Prng.seed m a) ∧
        ∀ (q : Nat) (u : State), q < total / slice →
          buildOrder (slice * 8) (s.setPrng (Prng.next^[slice * 8 * q] (Prng.seed m a))) = .ok () u →
            PairsSwapped s t (base + q * slice) u.ord (slice * 8)) ∧
  ∀ (base rem slice p : Nat) (m a : Word) (s u : State), 0 < rem → rem < slice → slice * 8 ≤ s.cfg.capOrder →
    (∀ j, j < rem → (s.bufAt (base + j)).isSome = true) →
    p = (if s.cfg.partialLimit = .literal then min slice (rem * 8) else min (slice * 8) (rem * 8)) →
    buildOrder (slice * 8) (s.setPrng (Prng.seed m a)) = .ok () u →
      ((∃ k e, k < 2 * (p / 2) ∧ u.ord[k]? = some e ∧ rem ≤ e / 8) →
        ∃ t, permuteChunks base rem slice m a s = .raised .bufferTooSmall t) ∧
      ((∀ k e, k < 2 * (p / 2) → u.ord[k]? = some e → e / 8 < rem) →
        ∃ t, permuteChunks base rem slice m a s = .ok () t ∧ t.prng = Prng.next^[slice * 8] (Prng.seed m a) ∧
          PairsSwapped s t base u.ord p ∧
          ∀ k e, 2 * (p / 2) ≤ k → u.ord[k]? = some e → t.bitAt base e = s.bitAt base e)

/-- R154, R157, R158, the spec's inference R160: a call that succeeds, done again with the same operands, restores the
region. -/
def Obligations.PermuteIsItsOwnInverse : Prop :=
  ∀ (base total slice : Nat) (m a : Word) (s t : State), s.buf.wf →
    permuteChunks base total slice m a s = .ok () t →
      ∃ u, permuteChunks base total slice m a t = .ok () u ∧ u.buf = s.buf

/-- R171, R194: the two permutation phases. Over whole slices neither faults, each makes its draws from its own seed
and leaves what `permute_chunks` with the operands of its rule leaves, and nothing but the engine's own registers and
its region of `BUF` changes: the last `min(PAY_LEN, 0x800)` bytes, the first `min(T_LEN, 0x800)`. -/
def Obligations.PermutationPhases : Prop :=
  ∀ s : State, s.status = .busy → s.cfg.admissible →
    (s.phase = .s1a → (s.payLen.toNat % 0x100 = 0 ∨ 0x800 ≤ s.payLen.toNat) →
      (∀ j, j < s.payLen.toNat → (s.bufAt j).isSome = true) →
      ∃ t, step s = .next t ∧ t.status = .busy ∧ t.phase = .s1b ∧
        t.prng = Prng.next^[0x800 * (min s.payLen.toNat 0x800 / 0x100)] (Prng.seed 0x3B9A73C9 s.seeds.main.e0) ∧
        (∀ x, x + min s.payLen.toNat 0x800 < s.payLen.toNat → t.buf.read x = s.buf.read x) ∧
        t = { s with phase := .s1b, buf := t.buf, prng := t.prng, pe := t.pe, pool := t.pool, ord := t.ord } ∧
        ∃ u, permuteChunks (s.payLen.toNat - min s.payLen.toNat 0x800) (min s.payLen.toNat 0x800) 0x100 0x3B9A73C9
            s.seeds.main.e0 s = .ok () u ∧ t = u.enter .s1b) ∧
    (s.phase = .s2Perm → (s.s2.tLen.toNat % 0x80 = 0 ∨ 0x800 ≤ s.s2.tLen.toNat) →
      (∀ j, j < s.s2.tLen.toNat → (s.bufAt j).isSome = true) →
      ∃ t, step s = .next t ∧ t.status = .busy ∧ t.phase = .glzHdr ∧
        t.prng = Prng.next^[0x400 * (min s.s2.tLen.toNat 0x800 / 0x80)] (Prng.seed 0x3B9A73C9 s.seeds.main.e2) ∧
        (∀ x, min s.s2.tLen.toNat 0x800 ≤ x → t.buf.read x = s.buf.read x) ∧
        t = { s with phase := .glzHdr, buf := t.buf, prng := t.prng, pe := t.pe, pool := t.pool, ord := t.ord } ∧
        ∃ u, permuteChunks 0 (min s.s2.tLen.toNat 0x800) 0x80 0x3B9A73C9 s.seeds.main.e2 s = .ok () u ∧
          t = u.enter .glzHdr)

/-! ## Stage-1 (spec/42_stage1.md) -/

/-- R173: the condition for every non-zero fence, odd ones included; the corner cases the rule gives; and that the
transform undoes the scrambling one. -/
def Obligations.WordTransformCorners : Prop :=
  ∀ (x : Word) (w : Half), x.toNat < 2 ^ 15 →
    (∀ f : Word, f ≠ 0 →
      wordTransform x f w =
        (if f.toNat / 2 ≤ x.toNat % f.toNat then w ^^^ x.setWidth 16 else w) - x.setWidth 16) ∧
    wordTransform x 1 w = (w ^^^ x.setWidth 16) - x.setWidth 16 ∧
    wordTransform x 2 w = (if x.toNat % 2 = 1 then w ^^^ x.setWidth 16 else w) - x.setWidth 16 ∧
    (∀ f : Word, 0x10000 ≤ f.toNat → wordTransform x f w = w - x.setWidth 16) ∧
    ∀ f : Word, f ≠ 0 →
      wordTransform x f
        (if f.toNat / 2 ≤ x.toNat % f.toNat then (w + x.setWidth 16) ^^^ x.setWidth 16
          else w + x.setWidth 16) = w

/-- R172, with the draw count the spec infers in R176: Pass B transforms word `k` with the `k`-th draw of a fresh
sequence, leaves a last odd byte, makes `floor(PAY_LEN / 2)` draws and never faults. -/
def Obligations.PassBTransformsEveryWord : Prop :=
  ∀ s : State, s.status = .busy → s.phase = .s1b → (∀ j, j < s.payLen.toNat → (s.bufAt j).isSome = true) →
    ∃ t, step s = .next t ∧
      t = { s with phase := .s2Tail, buf := t.buf, prng := t.prng } ∧
      t.prng = Prng.next^[s.payLen.toNat / 2] (Prng.seed Params.const s.seeds.main.e1) ∧
      (∀ (k : Nat) (b0 b1 : Byte), k < s.payLen.toNat / 2 → s.bufAt (2 * k) = some b0 →
        s.bufAt (2 * k + 1) = some b1 →
          ∃ c0 c1 : Byte, t.bufAt (2 * k) = some c0 ∧ t.bufAt (2 * k + 1) = some c1 ∧
            word16 c0 c1 =
              wordTransform (Prng.next^[k] (Prng.seed Params.const s.seeds.main.e1)).draw15.1 s.seeds.fence
                (word16 b0 b1)) ∧
      ∀ x, 2 * (s.payLen.toNat / 2) ≤ x → t.buf.read x = s.buf.read x

/-! ## Stage-2 (spec/43_stage2.md) -/

/-- R181, with the kind of the spec's C6: a payload length that is not a multiple of 4 or is below 16 raises
`BufferTooSmall`, nothing read. -/
def Obligations.Stage2SizeIsChecked : Prop :=
  ∀ s : State, s.status = .busy → s.phase = .s2Tail → (s.payLen.toNat % 4 ≠ 0 ∨ s.payLen.toNat < 16) →
    ∃ t, Faults (step s) s.cfg.codes.bufferTooSmall t ∧ t.phase = .s2Tail ∧ t.s2.len = s.payLen ∧ t.buf = s.buf ∧
      t.seeds = s.seeds ∧ t.prng = s.prng

/-- R182: the three tail words, the last word first. -/
def Obligations.TailWordsAreRead : Prop :=
  ∀ (s : State) (aux high low : Word), s.status = .busy → s.phase = .s2Tail →
    s.payLen.toNat % 4 = 0 → 16 ≤ s.payLen.toNat →
    read32 s.bufAt (s.payLen.toNat - 4) = some aux →
    read32 s.bufAt (s.payLen.toNat - 8) = some high →
    read32 s.bufAt (s.payLen.toNat - 12) = some low →
      ∃ t, step s = .next t ∧ t.phase = .s2Scan ∧ t.status = .busy ∧ t.s2.aux = aux ∧ t.s2.ckHigh = high ∧
        t.s2.ckLow = low ∧ t.s2.len.toNat = s.payLen.toNat - 12 ∧
        t = { s with phase := .s2Scan, s2 := t.s2 }

/-- R183: the marker is the highest offset below the tail that holds `0xFF`; with none, `MissingEndMarker`. -/
def Obligations.ScanFindsTheHighestSentinel : Prop :=
  ∀ s : State, s.status = .busy → s.phase = .s2Scan →
    (∀ j, j < s.s2.len.toNat → (s.bufAt j).isSome = true) →
      (∃ i, i < s.s2.len.toNat ∧ s.bufAt i = some 0xFF ∧
        (∀ j, i < j → j < s.s2.len.toNat → s.bufAt j ≠ some 0xFF) ∧
        step s = .next { s with phase := .s2Xor, s2 := { s.s2 with marker := BitVec.ofNat 32 i } }) ∨
      ((∀ j, j < s.s2.len.toNat → s.bufAt j ≠ some 0xFF) ∧
        step s = .next (s.failWith s.cfg.codes.missingEndMarker))

/-- R186: a switch that is due stashes, advances, reseeds the accumulator alone and restarts the count; one that is not
due does nothing. -/
def Obligations.KeyRotation : Prop :=
  ∀ s : State,
    (s.s2.count ≠ s.seeds.length.get s.s2.idx + s.s2.fudge → rotateIfDue s = s) ∧
    (s.s2.count = s.seeds.length.get s.s2.idx + s.s2.fudge →
      ∃ t, rotateIfDue s = t ∧
        t.s2.idx.val = (s.s2.idx.val + 1) % 3 ∧
        t.seeds.table.get s.s2.idx = s.prng.a ∧
        (∀ j, j ≠ s.s2.idx → t.seeds.table.get j = s.seeds.table.get j) ∧
        t.prng = { m := s.prng.m, a := s.seeds.table.get t.s2.idx } ∧
        t.s2.fudge = (if s.s2.idx = 2 then s.s2.fudge + 1 else s.s2.fudge) ∧
        t.s2.count = 0 ∧
        t = { s with
                seeds := { s.seeds with table := t.seeds.table }, prng := t.prng
                s2 := { s.s2 with idx := t.s2.idx, fudge := t.s2.fudge, count := t.s2.count } })

/-- R184, R185: every byte below the marker is XORed with its key byte, no byte at or above it, and the key registers end
as the key sequence leaves them. -/
def Obligations.XorDecodesBelowTheMarker : Prop :=
  ∀ s : State, s.status = .busy → s.phase = .s2Xor →
    (∀ j, j < s.s2.marker.toNat → (s.bufAt j).isSome = true) →
      ∃ t, step s = .next t ∧ t.phase = .s2Ck ∧ t.status = .busy ∧
        (∀ j, j < s.s2.marker.toNat → t.bufAt j = (s.bufAt j).map (fun b => b ^^^ s.keyByte j)) ∧
        (∀ x, s.s2.marker.toNat ≤ x → t.buf.read x = s.buf.read x) ∧
        t = { State.keyStep^[s.s2.marker.toNat] s.keySeed with phase := .s2Ck, buf := t.buf }

/-- R192: the closed forms of the two folds, from any accumulators. -/
def Obligations.ChecksumClosedForms : Prop :=
  ∀ (s : State) (ws : List Word), s.WordsAre ws →
    foldFrom ws.length 0 s =
      .ok () { s with s2 := { s.s2 with cx := s.s2.cx ^^^ closedCx ws, cs := s.s2.cs + closedCs ws } }

/-- R190 to R193: the marker byte is zeroed, the length truncated, and the two folds, from `CK_INIT`, decide: paired with
the stored words as `CK_HIGH_IS_XOR` says. -/
def Obligations.ChecksumDecides : Prop :=
  ∀ (s : State) (ws : List Word), s.status = .busy → s.phase = .s2Ck →
    s.s2.marker.toNat < s.payLen.toNat → ws.length = s.s2.marker.toNat / 4 → s.WordsAre ws →
      ∃ t, step s = .next t ∧
        t.bufAt s.s2.marker.toNat = some 0 ∧
        (∀ x, x ≠ s.s2.marker.toNat → t.buf.read x = s.buf.read x) ∧
        t.s2.tLen.toNat = s.s2.marker.toNat - s.s2.marker.toNat % 4 ∧
        t.s2.cx = s.cfg.ckInit.1 ^^^ closedCx ws ∧ t.s2.cs = s.cfg.ckInit.2 + closedCs ws ∧
        (if (if s.cfg.ckHighIsXor = true then t.s2.cx = s.s2.ckHigh ∧ t.s2.cs = s.s2.ckLow
              else t.s2.cs = s.s2.ckHigh ∧ t.s2.cx = s.s2.ckLow) then
          t.status = .busy ∧ t.phase = .s2Perm ∧ t.err = s.err
        else t.status = .failed ∧ t.phase = .s2Ck ∧ t.err = s.cfg.codes.checksumMismatch) ∧
        t =
          { s with
            status := t.status, err := t.err, phase := t.phase, buf := t.buf
            s2 := { s.s2 with tLen := t.s2.tLen, cx := t.s2.cx, cs := t.s2.cs } }

/-- R191, R192, R193, the spec's inference R196: where the checksum would pass, one flipped bit of a checksummed byte
makes it fail for certain. -/
def Obligations.FlippedBitIsDetected : Prop :=
  ∀ (s t : State) (a k : Nat) (b : Byte), s.status = .busy → s.phase = .s2Ck →
    step s = .next t → t.phase = .s2Perm →
    a < s.s2.marker.toNat - s.s2.marker.toNat % 4 → k < 8 → s.bufAt a = some b →
      ∃ u, Faults (step (s.setBuf a (b ^^^ ((1 : Byte) <<< k)))) s.cfg.codes.checksumMismatch u

/-! ## The Bitstream Reader (spec/44_bitstream.md) -/

/-- R71: the bits of whole bytes come most significant first, the bytes in increasing address order, and are
accumulated in that order into the value of a read. -/
def Obligations.BitsComeMostSignificantFirst : Prop :=
  ∀ (s : State) (bs : List Byte), s.br.mask = 0 → s.br.cur.toNat + bs.length ≤ s.br.len.toNat →
    (∀ j, j < bs.length → s.bufAt (s.br.base.toNat + s.br.cur.toNat + j) = bs[j]?) →
      ∃ t, takeBits (8 * bs.length) s = .ok (some (bitsOfBytes bs)) t ∧
        readBits (8 * bs.length) s = .ok (some (bitsToNat (bitsOfBytes bs))) t ∧
        t.br.cur.toNat = s.br.cur.toNat + bs.length ∧ t.br.mask = 0 ∧ t = { s with br := t.br }

/-- R212, R213: where `n` bits are left, `n` bits are delivered and `n` fewer are left. -/
def Obligations.ReaderDeliversWhatIsLeft : Prop :=
  ∀ (s : State) (n : Nat), s.CanRead n →
    ∃ bits t, takeBits n s = .ok (some bits) t ∧ bits.length = n ∧ t.br.left + n = s.br.left ∧
      t.br.maskLegal ∧ t.br.cur ≤ t.br.len

/-- R212, R213, the spec's inference R215: `EOS` is sticky. -/
def Obligations.EndOfStreamIsSticky : Prop :=
  ∀ s t : State, s.br.cur ≤ s.br.len → readBit s = .ok none t →
    t.br.cur = t.br.len ∧ t.br.mask = 0 ∧ readBit t = .ok none t ∧
      ∀ n, 1 ≤ n → readBits n t = .ok none t

/-! ## The two codes (spec/30_encoding.md, spec/45_code_table.md) -/

/-- R110, R112, R113: decoding the words of a well-formed instruction, whatever follows them, gives the instruction and
what follows. -/
def Obligations.DecodeOfEncodeAgrees : Prop :=
  ∀ (i : Instr) (rest c : Code), i.wf = true → (encode i).append rest = some c → decode c = .ok (i, rest)

/-- R110, R112: words that decode are the words of the instruction and what was left over, so no two words stand for
one instruction. -/
def Obligations.EncodeOfDecodeAgrees : Prop :=
  ∀ (i : Instr) (rest c : Code), decode c = .ok (i, rest) → (encode i).append rest = some c

/-- R110: the prefix code is complete and prefix-free; every value 0..127 has exactly one codeword, and no codeword
decodes to 128 or more. -/
def Obligations.PrefixCodeIsCompleteAndPrefixFree : Prop :=
  (∀ bits : List Bool, 13 ≤ bits.length →
    ∃ i w rest, decodeBits bits = .ok (i, rest) ∧ encode i = .bits w ∧ bits = w ++ rest) ∧
  (∀ (i j : Instr) (w v : List Bool), encode i = .bits w → encode j = .bits v → w <+: v → i = j) ∧
  (∀ v : Byte, v.toNat < 128 → ∃! i : Instr, entryValue i = some v) ∧
  ∀ (i : Instr) (v : Byte), entryValue i = some v → v.toNat < 128

/-- Words of both codes, written out from R112 and R230 to R237, decode to their instructions. -/
def Obligations.SampleWordsDecode : Prop :=
  decodeTab [0x01] = .ok (.lit, []) ∧ decodeTab [0x03, 0x00, 0x02] = .ok (.cpy 0 2, []) ∧
  decodeTab [0x05, 0x01, 0x07] = .ok (.cpyw 1 7, []) ∧ decodeTab [0x08] = .error (.illegalOpcode 8) ∧
  decodeBits [true] = .ok (.pfx0, []) ∧ decodeBits [false, true, true] = .ok (.pfx1 1, []) ∧
  decodeBits [false, false, false, false, false, false, false] = .ok (.pfxz, []) ∧
  decodeBits [false, false, false, false, false, false, true, true, false, false, true, false, false] =
    .ok (.pfx6 36, [])

/-- R230 to R237: the pattern of every codeword class, the prefix count it leaves in `CODE_LEN` and the entry it emits;
each completes wherever its bits can be read, and nothing else changes. -/
def Obligations.CodewordsEmitTheirEntries : Prop :=
  EmitsEntry .pfx0 [true] 0 0x01 ∧
  (∀ p : BitVec 1, EmitsEntry (.pfx1 p) ([false, true] ++ bitsOf 1 p.toNat) 1 (0x02 ||| p.setWidth 8)) ∧
  (∀ p : BitVec 2, EmitsEntry (.pfx2 p) ([false, false, true] ++ bitsOf 2 p.toNat) 2 (0x04 ||| p.setWidth 8)) ∧
  (∀ p : BitVec 3,
    EmitsEntry (.pfx3 p) ([false, false, false, true] ++ bitsOf 3 p.toNat) 3 (0x08 ||| p.setWidth 8)) ∧
  (∀ p : BitVec 4,
    EmitsEntry (.pfx4 p) ([false, false, false, false, true] ++ bitsOf 4 p.toNat) 4 (0x10 ||| p.setWidth 8)) ∧
  (∀ p : BitVec 5,
    EmitsEntry (.pfx5 p) ([false, false, false, false, false, true] ++ bitsOf 5 p.toNat) 5
      (0x20 ||| p.setWidth 8)) ∧
  (∀ p : BitVec 6,
    EmitsEntry (.pfx6 p) ([false, false, false, false, false, false, true] ++ bitsOf 6 p.toNat) 6
      (0x40 ||| p.setWidth 8)) ∧
  EmitsEntry .pfxz [false, false, false, false, false, false, false] 7 0x00

/-- R221, R222: where the next bits are a codeword, a step of the table builder runs that codeword. One codeword a
step is the model's choice (log 1). -/
def Obligations.StepRunsTheCodeword : Prop :=
  ∀ (s t : State) (bits : List Bool) (i : Instr), s.status = .busy → s.phase = .glzTab →
    s.ct.tcount < s.ct.tlen → takeBits bits.length s = .ok (some bits) t → decodeBits bits = .ok (i, []) →
      step s = exec i s

/-- R221, R225: bits that end inside a codeword are lost, its entry is not emitted, and the loop begins with the short
table; a full table, the empty one included, ends the builder without a bit read. That this is a step of its own, in
which `TP`, `DP`, `LP` and `WP` become 0 (R246), is the model's choice (log 1, log 17). -/
def Obligations.ShortTableEndsTheBuilder : Prop :=
  (∀ (s u : State) (bits : List Bool), s.status = .busy → s.phase = .glzTab → s.ct.tcount < s.ct.tlen →
    takeBits bits.length s = .ok (some bits) u → u.br.mask = 0 → u.br.len ≤ u.br.cur →
    decodeBits bits = .error .bitsEnd →
      ∃ codeLen, step s =
        .next
          { s with
            phase := .glzRun, br := u.br
            ct := { s.ct with codeLen := codeLen }
            glz := { s.glz with tp := 0, dp := 0, lp := 0, wp := 0 } }) ∧
  ∀ s : State, s.status = .busy → s.phase = .glzTab → s.ct.tlen ≤ s.ct.tcount →
    step s = .next { s with phase := .glzRun, glz := { s.glz with tp := 0, dp := 0, lp := 0, wp := 0 } }

/-! ## The Glaze Decompressor (spec/46_glaze.md) -/

/-- R241 to R244, R220: a sub-container whose regions fit sets every register of the header and opens the table;
`BR_BITBUF` is left at a free value (log 11). That the set-up of R220 is done in the step that began in `GLZ_HDR` is the
model's choice (log 17). -/
def Obligations.HeaderParseAccepts : Prop :=
  ∀ (s : State) (lb ld lo n : Word), s.status = .busy → s.phase = .glzHdr →
    read32 s.bufAt 0 = some s.expected → s.expected.toNat ≤ s.cfg.capOut →
    read32 s.bufAt 4 = some lb → 4 ≤ lb.toNat → 12 + lb.toNat ≤ s.s2.tLen.toNat →
    read32 s.bufAt (8 + lb.toNat) = some ld → 16 + lb.toNat + ld.toNat ≤ s.s2.tLen.toNat →
    read32 s.bufAt (12 + lb.toNat + ld.toNat) = some lo →
    16 + lb.toNat + ld.toNat + lo.toNat ≤ s.s2.tLen.toNat →
    read32 s.bufAt 8 = some n → n.toNat ≤ s.cfg.capTable →
      step s =
        .next
          { s with
            phase := .glzTab
            glz :=
              { s.glz with
                declared := s.expected, lb := lb, ld := ld, lo := lo
                dictBase := BitVec.ofNat 32 (12 + lb.toNat)
                ovfBase := BitVec.ofNat 32 (16 + lb.toNat + ld.toNat) }
            ct := { s.ct with tlen := n, tcount := 0 }
            br := { base := 12, len := lb - 4, cur := 0, bitbuf := Config.freeByte s.free, mask := 0 }
            free := s.free + 1 }

/-- R241, R242, R243, R245, R220: the checks of the header parse and of the table set-up, in their order. That the
last two, which R315 puts in `GLZ_TAB`, are made in the step that began in `GLZ_HDR` is the model's choice (log 17).
-/
def Obligations.HeaderParseRejectsInOrder : Prop :=
  ∀ s : State, s.status = .busy → s.phase = .glzHdr →
    (s.s2.tLen.toNat < 8 → step s = .next (s.failWith s.cfg.codes.regionTooLarge)) ∧
    ∀ declared lb : Word, 8 ≤ s.s2.tLen.toNat → read32 s.bufAt 0 = some declared → read32 s.bufAt 4 = some lb →
      (declared ≠ s.expected → ParseFaults s s.cfg.codes.sizeMismatch .glzHdr) ∧
      (declared = s.expected → s.cfg.capOut < s.expected.toNat →
        ParseFaults s s.cfg.codes.allocationFailure .glzHdr) ∧
      (declared = s.expected → s.expected.toNat ≤ s.cfg.capOut →
        (s.s2.tLen.toNat < 8 + lb.toNat → ParseFaults s s.cfg.codes.regionTooLarge .glzHdr) ∧
        (8 + lb.toNat ≤ s.s2.tLen.toNat → s.s2.tLen.toNat < 12 + lb.toNat →
          ParseFaults s s.cfg.codes.regionTooLarge .glzHdr) ∧
        ∀ ld : Word, 12 + lb.toNat ≤ s.s2.tLen.toNat → read32 s.bufAt (8 + lb.toNat) = some ld →
          (s.s2.tLen.toNat < 16 + lb.toNat + ld.toNat → ParseFaults s s.cfg.codes.regionTooLarge .glzHdr) ∧
          ∀ lo : Word, 16 + lb.toNat + ld.toNat ≤ s.s2.tLen.toNat →
            read32 s.bufAt (12 + lb.toNat + ld.toNat) = some lo →
              (s.s2.tLen.toNat < 16 + lb.toNat + ld.toNat + lo.toNat →
                ParseFaults s s.cfg.codes.regionTooLarge .glzHdr) ∧
              (16 + lb.toNat + ld.toNat + lo.toNat ≤ s.s2.tLen.toNat →
                (lb.toNat < 4 → ParseFaults s s.cfg.codes.regionTooLarge .glzTab) ∧
                ∀ n : Word, 4 ≤ lb.toNat → read32 s.bufAt 8 = some n → s.cfg.capTable < n.toNat →
                  ParseFaults s s.cfg.codes.allocationFailure .glzTab))

/-- R246, R247: where the bytes of `TAB` at `TP` decode to a Glaze instruction, a step of the loop runs it. One
instruction a step is the model's choice (log 1). -/
def Obligations.StepRunsTheGlazeInstruction : Prop :=
  ∀ (s : State) (bytes : List Byte) (i : Instr), s.status = .busy → s.phase = .glzRun →
    s.glz.wp < s.expected → s.glz.tp.toNat + bytes.length ≤ s.ct.tcount.toNat →
    (∀ j, j < bytes.length → s.tab.read (s.glz.tp.toNat + j) = bytes[j]?) → decodeTab bytes = .ok (i, []) →
      step s = exec i s

/-- R261: `LIT` copies one dictionary byte. -/
def Obligations.LitCopiesOneLiteral : Prop :=
  ∀ (s : State) (b : Byte), s.glz.dp < s.glz.ld → s.bufAt s.dictAddr = some b → s.glz.wp < s.expected →
    exec .lit s =
      .next
        { s with
          out := s.out.write s.glz.wp.toNat b
          glz := { s.glz with tp := s.glz.tp + 1, dp := s.glz.dp + 1, wp := s.glz.wp + 1 } }

/-- R262: `REP d` copies the byte `d` back, without bias. -/
def Obligations.RepCopiesOneByteBack : Prop :=
  ∀ (s : State) (d b : Byte), 1 ≤ d.toNat → d.toNat ≤ s.glz.wp.toNat →
    s.out.read (s.glz.wp.toNat - d.toNat) = some b → s.glz.wp < s.expected →
      exec (.rep d) s =
        .next
          { s with
            out := s.out.write s.glz.wp.toNat b
            glz := { s.glz with tp := s.glz.tp + 2, wp := s.glz.wp + 1 } }

/-- R263: `CPY d0, l0` appends `l0 + 1` bytes from `d0 + l0 + 1` back. -/
def Obligations.CpyAppendsEarlierBytes : Prop :=
  ∀ (s : State) (d0 l0 : Byte), s.CanCopy (d0.toNat + l0.toNat + 1) (l0.toNat + 1) →
    ∃ out, Copied s (d0.toNat + l0.toNat + 1) (l0.toNat + 1) out ∧
      exec (.cpy d0 l0) s =
        .next
          { s with
            out := out
            glz := { s.glz with tp := s.glz.tp + 3, wp := s.glz.wp + BitVec.ofNat 32 (l0.toNat + 1) } }

/-- R264: `CPYD l0` takes `d0` from the dictionary and copies as `CPY` does. -/
def Obligations.CpydAppendsEarlierBytes : Prop :=
  ∀ (s : State) (l0 d0 : Byte), s.glz.dp < s.glz.ld → s.bufAt s.dictAddr = some d0 →
    s.CanCopy (d0.toNat + l0.toNat + 1) (l0.toNat + 1) →
      ∃ out, Copied s (d0.toNat + l0.toNat + 1) (l0.toNat + 1) out ∧
        exec (.cpyd l0) s =
          .next
            { s with
              out := out
              glz :=
                { s.glz with
                  tp := s.glz.tp + 2, dp := s.glz.dp + 1, wp := s.glz.wp + BitVec.ofNat 32 (l0.toNat + 1) } }

/-- R265: `CPYW dHi, l0` takes `dLo` from the dictionary; its distance has no further 1, so it can overlap its own
output. -/
def Obligations.CpywAppendsAndMayOverlap : Prop :=
  ∀ (s : State) (dHi l0 dLo : Byte), s.glz.dp < s.glz.ld → s.bufAt s.dictAddr = some dLo →
    s.CanCopy (dHi.toNat * 256 + dLo.toNat + l0.toNat) (l0.toNat + 1) →
      ∃ out, Copied s (dHi.toNat * 256 + dLo.toNat + l0.toNat) (l0.toNat + 1) out ∧
        exec (.cpyw dHi l0) s =
          .next
            { s with
              out := out
              glz :=
                { s.glz with
                  tp := s.glz.tp + 3, dp := s.glz.dp + 1, wp := s.glz.wp + BitVec.ofNat 32 (l0.toNat + 1) } }

/-- R266: `RUN l0` copies `l0 + 8` dictionary bytes. -/
def Obligations.RunCopiesLiterals : Prop :=
  ∀ (s : State) (l0 : Byte) (lits : List Byte), lits.length = l0.toNat + 8 → s.DictHolds lits →
    s.glz.wp.toNat + lits.length ≤ s.expected.toNat →
      ∃ out, Appended s lits out ∧
        exec (.run l0) s =
          .next
            { s with
              out := out
              glz :=
                { s.glz with
                  tp := s.glz.tp + 2, dp := s.glz.dp + BitVec.ofNat 32 lits.length
                  wp := s.glz.wp + BitVec.ofNat 32 lits.length } }

/-- R267: `RUNX` takes `l0` from the length-overflow stream and copies `l0 + 14` dictionary bytes. -/
def Obligations.RunxCopiesLiterals : Prop :=
  ∀ (s : State) (l0 : Byte) (lits : List Byte), s.glz.lp < s.glz.lo → s.bufAt s.ovfAddr = some l0 →
    lits.length = l0.toNat + 14 → s.DictHolds lits → s.glz.wp.toNat + lits.length ≤ s.expected.toNat →
      ∃ out, Appended s lits out ∧
        exec .runx s =
          .next
            { s with
              out := out
              glz :=
                { s.glz with
                  tp := s.glz.tp + 1, lp := s.glz.lp + 1, dp := s.glz.dp + BitVec.ofNat 32 lits.length
                  wp := s.glz.wp + BitVec.ofNat 32 lits.length } }

/-- R247, R248, R249: a stream exhausted at an instruction's first fetch from it traps with `DecodeOverflow`, nothing
written: `TP` unmoved where the table has no opcode byte left, at the table's end where it ends inside the operands of
REP, CPY, CPYD, CPYW or RUN, past the instruction otherwise. -/
def Obligations.ExhaustedStreamTraps : Prop :=
  ∀ s : State,
    (s.glz.ld ≤ s.glz.dp →
      exec .lit s = .next ((s.advanceTp 1).failWith s.cfg.codes.decodeOverflow) ∧
      (∀ l0, exec (.cpyd l0) s = .next ((s.advanceTp 2).failWith s.cfg.codes.decodeOverflow)) ∧
      (∀ dHi l0, exec (.cpyw dHi l0) s = .next ((s.advanceTp 3).failWith s.cfg.codes.decodeOverflow)) ∧
      ∀ l0, exec (.run l0) s = .next ((s.advanceTp 2).failWith s.cfg.codes.decodeOverflow)) ∧
    (s.glz.lo ≤ s.glz.lp → exec .runx s = .next ((s.advanceTp 1).failWith s.cfg.codes.decodeOverflow)) ∧
    (s.status = .busy → s.phase = .glzRun → s.glz.wp < s.expected → s.ct.tcount ≤ s.glz.tp →
      step s = .next (s.failWith s.cfg.codes.decodeOverflow)) ∧
    ∀ (b : Byte) (n : Nat), s.status = .busy → s.phase = .glzRun → s.glz.wp < s.expected → s.glz.tp < s.ct.tcount →
      s.tab.read s.glz.tp.toNat = some b →
      (((b = 2 ∨ b = 4 ∨ b = 6) ∧ n = 1) ∨ ((b = 3 ∨ b = 5) ∧ n = 2)) →
      s.ct.tcount.toNat ≤ s.glz.tp.toNat + n →
      (∀ j, s.glz.tp.toNat ≤ j → j < s.ct.tcount.toNat → (s.tab.read j).isSome = true) →
        step s = .next ({ s with glz := { s.glz with tp := s.ct.tcount } }.failWith s.cfg.codes.decodeOverflow)

/-- R251: a distance of 0 or beyond the bytes written traps with `DecodeOverflow` before a byte is written. -/
def Obligations.BadDistanceTraps : Prop :=
  ∀ s : State,
    (∀ d : Byte, (d.toNat = 0 ∨ s.glz.wp.toNat < d.toNat) →
      exec (.rep d) s = .next ((s.advanceTp 2).failWith s.cfg.codes.decodeOverflow)) ∧
    (∀ d0 l0 : Byte, s.glz.wp.toNat < d0.toNat + l0.toNat + 1 →
      exec (.cpy d0 l0) s = .next ((s.advanceTp 3).failWith s.cfg.codes.decodeOverflow)) ∧
    (∀ l0 d0 : Byte, s.glz.dp < s.glz.ld → s.bufAt s.dictAddr = some d0 →
      s.glz.wp.toNat < d0.toNat + l0.toNat + 1 →
      ∃ t, Faults (exec (.cpyd l0) s) s.cfg.codes.decodeOverflow t ∧ t.out = s.out ∧ t.glz.wp = s.glz.wp) ∧
    (∀ dHi l0 dLo : Byte, s.glz.dp < s.glz.ld → s.bufAt s.dictAddr = some dLo →
      (dHi.toNat * 256 + dLo.toNat + l0.toNat = 0 ∨
        s.glz.wp.toNat < dHi.toNat * 256 + dLo.toNat + l0.toNat) →
      ∃ t, Faults (exec (.cpyw dHi l0) s) s.cfg.codes.decodeOverflow t ∧ t.out = s.out ∧
        t.glz.wp = s.glz.wp)

/-- R250, R251, R252: an instruction that runs out of room, or of dictionary bytes inside a literal run, writes the bytes
before that point and traps there; that `OUT` keeps them in `FAILED`, where no host may read it, is log 16. -/
def Obligations.PartWrittenInstructionsTrap : Prop :=
  (∀ (s : State) (b : Byte), s.glz.dp < s.glz.ld → s.bufAt s.dictAddr = some b → s.expected ≤ s.glz.wp →
    ∃ t, Faults (exec .lit s) s.cfg.codes.decodeOverflow t ∧ t.glz.wp = s.glz.wp ∧ t.out = s.out) ∧
  (∀ (s : State) (d b : Byte), 1 ≤ d.toNat → d.toNat ≤ s.glz.wp.toNat →
    s.out.read (s.glz.wp.toNat - d.toNat) = some b → s.expected ≤ s.glz.wp →
      exec (.rep d) s = .next ((s.advanceTp 2).failWith s.cfg.codes.decodeOverflow)) ∧
  (∀ (s : State) (d0 l0 : Byte), s.NoRoom (d0.toNat + l0.toNat + 1) (l0.toNat + 1) →
    ∃ t, Faults (exec (.cpy d0 l0) s) s.cfg.codes.decodeOverflow t ∧ t.glz.wp = s.expected ∧
      Copied s (d0.toNat + l0.toNat + 1) (s.expected.toNat - s.glz.wp.toNat) t.out) ∧
  (∀ (s : State) (l0 d0 : Byte), s.glz.dp < s.glz.ld → s.bufAt s.dictAddr = some d0 →
    s.NoRoom (d0.toNat + l0.toNat + 1) (l0.toNat + 1) →
      ∃ t, Faults (exec (.cpyd l0) s) s.cfg.codes.decodeOverflow t ∧ t.glz.wp = s.expected ∧
        Copied s (d0.toNat + l0.toNat + 1) (s.expected.toNat - s.glz.wp.toNat) t.out) ∧
  (∀ (s : State) (dHi l0 dLo : Byte), s.glz.dp < s.glz.ld → s.bufAt s.dictAddr = some dLo →
    s.NoRoom (dHi.toNat * 256 + dLo.toNat + l0.toNat) (l0.toNat + 1) →
      ∃ t, Faults (exec (.cpyw dHi l0) s) s.cfg.codes.decodeOverflow t ∧ t.glz.wp = s.expected ∧
        Copied s (dHi.toNat * 256 + dLo.toNat + l0.toNat) (s.expected.toNat - s.glz.wp.toNat) t.out) ∧
  (∀ (s : State) (l0 : Byte) (lits : List Byte), lits.length < l0.toNat + 8 → s.RunEnds lits →
    ∃ t, Faults (exec (.run l0) s) s.cfg.codes.decodeOverflow t ∧
      t.glz.wp = s.glz.wp + BitVec.ofNat 32 lits.length ∧ Appended s lits t.out) ∧
  ∀ (s : State) (l0 : Byte) (lits : List Byte), s.glz.lp < s.glz.lo → s.bufAt s.ovfAddr = some l0 →
    lits.length < l0.toNat + 14 → s.RunEnds lits →
      ∃ t, Faults (exec .runx s) s.cfg.codes.decodeOverflow t ∧
        t.glz.wp = s.glz.wp + BitVec.ofNat 32 lits.length ∧ Appended s lits t.out

/-- R268: an opcode byte outside 1..7 raises `IllegalOpcode`; only `TP` has moved and nothing is written. That the bytes
128 to 255, which no codeword makes, are illegal too is the model's choice (log 12). -/
def Obligations.IllegalOpcodeIsRaised : Prop :=
  ∀ (s : State) (b : Byte), s.status = .busy → s.phase = .glzRun → s.glz.wp < s.expected →
    s.glz.tp < s.ct.tcount → s.tab.read s.glz.tp.toNat = some b → (b.toNat = 0 ∨ 8 ≤ b.toNat) →
      step s =
        .next ({ s with glz := { s.glz with tp := s.glz.tp + 1 } }.failWith s.cfg.codes.illegalOpcode)

/-- R250, R251, R252, 46_glaze.md section 3, the spec's inference R88: a Glaze instruction, completed or trapped,
changes only `OUT` from the old `WP` up to the new one, the four cursors and, trapped, `STATUS` and `ERR`. -/
def Obligations.GlazeInstructionsWriteOnlyOut : Prop :=
  ∀ (i : Instr) (s t : State), i.isGlaze = true → exec i s = .next t →
    t = { s with
            status := t.status, err := t.err, out := t.out
            glz := { s.glz with tp := t.glz.tp, dp := t.glz.dp, lp := t.glz.lp, wp := t.glz.wp } } ∧
    ((t.status = s.status ∧ t.err = s.err) ∨ (t.status = .failed ∧ t.err = s.cfg.codes.decodeOverflow)) ∧
    (∀ x, (x < s.glz.wp.toNat ∨ t.glz.wp.toNat ≤ x) → t.out.read x = s.out.read x) ∧
    t.glz.tp = s.glz.tp + BitVec.ofNat 32 i.size

/-- R261 to R267, the spec's inference R271: every Glaze instruction that completes writes at least one byte and never
passes the declared size. -/
def Obligations.GlazeInstructionsMakeProgress : Prop :=
  ∀ (i : Instr) (s t : State), i.isGlaze = true → s.status = .busy → exec i s = .next t → t.status = .busy →
    s.glz.wp < t.glz.wp ∧ t.glz.wp ≤ s.expected

/-! ## The orchestrator and the faults (spec/47_orchestrator.md, spec/60_exceptions.md) -/

/-- R281, R282: the header checks in their order, and what a good header sets. That `CAP_IN` is checked in `PHASE = HDR`
and not at the load is the model's choice (log 9). -/
def Obligations.HeaderIsChecked : Prop :=
  ∀ s : State, s.status = .busy → s.phase = .hdr →
    (s.cfg.capIn < s.nIn.toNat → step s = .next (s.failWith s.cfg.codes.allocationFailure)) ∧
    (s.nIn.toNat ≤ s.cfg.capIn →
      (s.nIn.toNat < 16 → step s = .next (s.failWith s.cfg.codes.invalidHeader)) ∧
      ∀ tag : Word, 16 ≤ s.nIn.toNat → read32 s.hdr.read 0 = some tag →
        (tag ≠ 2 → step s = .next (s.failWith s.cfg.codes.invalidHeader)) ∧
        ∀ size : Word, tag = 2 → read32 s.hdr.read 4 = some size →
          step s = .next { s with phase := .seedchk, expected := size, payLen := s.nIn - 16 })

/-- R101: the two reserved words of the header have no effect on any step of a decode, whatever they hold. -/
def Obligations.ReservedWordsHaveNoEffect : Prop :=
  ∀ (s t : State) (a : Nat) (v : Byte), s.status = .busy → 8 ≤ a → step s = .next t →
    step { s with hdr := s.hdr.write a v } = .next { t with hdr := s.hdr.write a v }

/-- R284: `FENCE = 0` or a zero `LENGTH[i]` raises `InvalidSeed`; no other value is rejected. -/
def Obligations.SeedsAreChecked : Prop :=
  ∀ s : State, s.status = .busy → s.phase = .seedchk →
    ((s.seeds.fence = 0 ∨ s.seeds.length.e0 = 0 ∨ s.seeds.length.e1 = 0 ∨ s.seeds.length.e2 = 0) →
      step s = .next (s.failWith s.cfg.codes.invalidSeed)) ∧
    (s.seeds.fence ≠ 0 → s.seeds.length.e0 ≠ 0 → s.seeds.length.e1 ≠ 0 → s.seeds.length.e2 ≠ 0 →
      step s = .next { s with phase := .s1a })

/-- R285, R286, R246, R287: a step of a decode stays in a phase that loops or goes on to the next one, a fault stays
where it was raised, and only the Glaze loop ends a decode well, which it does, changing nothing else, when `WP` is at
`EXPECTED`. That the loops take one codeword or instruction a step (log 1) and that the table set-up, which faults in
`GLZ_TAB`, belongs to the step that began in `GLZ_HDR` (log 17) are the model's choices. -/
def Obligations.PhasesRunInOrder : Prop :=
  (∀ s t : State, s.status = .busy → s.phase ≠ .finished → step s = .next t →
    (t.status = .busy ∧ (t.phase.rank = s.phase.rank + 1 ∨
      (t.phase = s.phase ∧ (s.phase = .glzTab ∨ s.phase = .glzRun)))) ∨
    (t.status = .failed ∧ (t.phase = s.phase ∨ (s.phase = .glzHdr ∧ t.phase = .glzTab))) ∨
    (t.status = .done ∧ s.phase = .glzRun ∧ t.phase = .finished ∧ s.expected ≤ s.glz.wp)) ∧
  ∀ s : State, s.status = .busy → s.phase = .glzRun → s.expected ≤ s.glz.wp →
    step s = .next { s with status := .done, phase := .finished }

/-- R301, R300, R303: taking a fault writes `ERR` and `STATUS` and nothing else, `PHASE` keeps its value, and the
sequencer stops; the one way out of `FAILED` is the host's `start`. After reset the codes are 1 to 10 in the order of
R300. That a step with no request of the host changes nothing and that a request stands at the head of a list are the
model's choices (log 4), as it is that the codes are a parameter (log 21). -/
def Obligations.FaultIsTaken : Prop :=
  (∀ (k : ErrKind) (s : State),
    s.raise k = s.failWith (k.code s.cfg.codes) ∧ k.code s.cfg.codes ∈ s.cfg.codes.all ∧
      (s.host = [] → step (s.raise k) = .next (s.raise k))) ∧
  (∀ s t : State, s.status = .failed → step s = .next t → t.status ≠ .failed →
    s.host.head? = some .start ∧ t.status = .busy ∧ t.err = 0 ∧ t.phase = .hdr) ∧
  State.reset.cfg.codes.all = [1, 2, 3, 4, 5, 6, 7, 8, 9, 10]

/-- R287, R304: the host gets output only in `DONE`, and no byte of it in `FAILED`. -/
def Obligations.OutputOnlyInDone : Prop :=
  ∀ s : State,
    (s.status = .done → s.collect = .output (s.out.bytes 0 s.expected.toNat)) ∧
    (s.status = .failed → s.collect = .failure s.err) ∧
    (s.status ≠ .done → ∀ l, s.collect ≠ .output l)

/-! ## The machine as a whole (spec/10_state.md, spec/70_reset_and_hazards.md) -/

/-- R58: while `BUSY` the host has no move: its requests wait as they are, a queue that is the model's choice (log 4);
and no step changes the capacities (log 6). -/
def Obligations.HostHasNoMoveWhileBusy : Prop :=
  ∀ s t : State, s.status = .busy → step s = .next t →
    t.host = s.host ∧ t.cfg = s.cfg ∧ t.nIn = s.nIn ∧ t.hdr = s.hdr

/-- R31, R197: a decode writes no SeedSet register but `TABLE`, and that only in step 3 of Stage-2. -/
def Obligations.OnlyKeyRotationWritesTable : Prop :=
  ∀ s t : State, s.status = .busy → step s = .next t →
    t.seeds.main = s.seeds.main ∧ t.seeds.length = s.seeds.length ∧ t.seeds.fence = s.seeds.fence ∧
      (s.phase ≠ .s2Xor → t.seeds.table = s.seeds.table)

/-- R55, R80, R345, R350: a loaded container stands in `HDR` and `BUF` byte for byte, its length in `N_IN`; a load of
the seeds writes all ten SeedSet registers, one of the table `TABLE` alone; nothing else changes but the host's list,
from which the request is taken. That list is the model's choice (log 4), that nothing of an earlier container stays
its reading (log 7). -/
def Obligations.LoadedContainerReadsBack : Prop :=
  (∀ (s : State) (bytes : List Byte) (rest : List HostAction), s.status ≠ .busy →
    s.host = .loadContainer bytes :: rest → bytes.length < 2 ^ 32 →
      ∃ t, step s = .next t ∧ t.nIn.toNat = bytes.length ∧ t.host = rest ∧
        (∀ a, a < 16 → t.hdr.read a = bytes[a]?) ∧ (∀ a, t.buf.read a = bytes[16 + a]?) ∧
        t = { s with host := rest, nIn := t.nIn, hdr := t.hdr, buf := t.buf }) ∧
  (∀ (s : State) (seeds : SeedSet) (rest : List HostAction), s.status ≠ .busy → s.host = .loadSeeds seeds :: rest →
    step s = .next { s with host := rest, seeds := seeds }) ∧
  ∀ (s : State) (table : Triple) (rest : List HostAction), s.status ≠ .busy → s.host = .loadTable table :: rest →
    step s =
      .next
        { s with
          host := rest
          seeds := { main := s.seeds.main, table := table, length := s.seeds.length, fence := s.seeds.fence } }

/-- R55, R60: what power-on leaves; a `start` clears `ERR`. That unwritten cells hold no value (log 3) and that a step
with no request of the host changes nothing (log 4) are the model's choices, as are the fields that hold the
parameters of R11 (log 21), here at the values R11 takes. -/
def Obligations.PowerOnAndStart : Prop :=
  State.reset.status = .idle ∧ State.reset.err = 0 ∧ step State.reset = .next State.reset ∧
  (State.reset.cfg.s2AddConst = 0x3B9A73C9 ∧ State.reset.cfg.ckInit = (0, 0) ∧ State.reset.cfg.ckHighIsXor = true ∧
    State.reset.cfg.permBitLsb0 = true ∧ State.reset.cfg.partialLimit = .literal ∧ State.reset.cfg.admissible) ∧
  (∀ a, State.reset.buf.read a = none ∧ State.reset.hdr.read a = none ∧ State.reset.tab.read a = none ∧
    State.reset.out.read a = none) ∧
  ∀ (s : State) (rest : List HostAction), s.status ≠ .busy → s.host = .start :: rest →
    ∃ t, step s = .next t ∧ t.status = .busy ∧ t.err = 0 ∧ t.phase = .hdr ∧ t.host = rest ∧
      t.seeds = s.seeds ∧ t.nIn = s.nIn ∧ t.hdr = s.hdr ∧ t.buf = s.buf

/-- The invariant holds after power-on, with the register values the model chose (log 2). -/
def Obligations.InvariantHoldsAtReset : Prop := State.reset.Inv

/-- Every step keeps the invariant, from every state that has it. -/
def Obligations.EveryStepKeepsTheInvariant : Prop :=
  ∀ s t : State, s.Inv → step s = .next t → t.Inv

/-- R60, R76: from every state that has the invariant no step reads a cell that nothing has written (log 3), and the only
step that is refused is the load of a container that `N_IN` cannot count (log 8). -/
def Obligations.NoUnwrittenCellIsRead : Prop :=
  ∀ s : State, s.Inv →
    (∃ t, step s = .next t) ∨
      (s.status ≠ .busy ∧ ∃ bytes rest, s.host = .loadContainer bytes :: rest ∧ 2 ^ 32 ≤ bytes.length)

/-- The spec's inference R360: every decode ends in `DONE` or `FAILED` after finitely many steps. -/
def Obligations.EveryDecodeEnds : Prop :=
  ∀ s : State, s.Inv → s.status = .busy →
    ∃ (n : Nat) (t : State), Sys2Proof.core.run n s = .next t ∧ (t.status = .done ∨ t.status = .failed)

/-- R61, the spec's inference R341: with no request of the host waiting, what a decode gives depends on the container, the
SeedSet and the configuration alone, whatever an earlier decode left in every other register and memory. The configuration
is every parameter of R11 (log 21), the capacities among them (log 6); the host's list, empty in both machines, is the
model's choice (log 4). -/
def Obligations.NothingSurvivesADecode : Prop :=
  ∀ s u : State, s.cfg = u.cfg → s.nIn = u.nIn → s.hdr = u.hdr → s.buf = u.buf → s.seeds = u.seeds →
    s.host = [] → u.host = [] →
      ∀ (n : Nat) (t : State), Sys2Proof.core.run n s.start = .next t →
        ∃ v : State, Sys2Proof.core.run n u.start = .next v ∧ v.status = t.status ∧ v.collect = t.collect ∧
          v.seeds = t.seeds
end

