-- ==== Sys2Proof/Laws/State.lean ====
section
/-! SUPPORT. For each named update of State, one lemma per field: what the update makes of it. No proof needs to
unfold a record update. -/

namespace Sys2Proof.Machine


/-! `State.raise` -/

@[simp] theorem State.raise_cfg (k : ErrKind) (s : State) : (s.raise k).cfg = s.cfg := rfl
@[simp] theorem State.raise_host (k : ErrKind) (s : State) : (s.raise k).host = s.host := rfl
@[simp] theorem State.raise_free (k : ErrKind) (s : State) : (s.raise k).free = s.free := rfl
@[simp] theorem State.raise_status (k : ErrKind) (s : State) : (s.raise k).status = .failed := rfl
@[simp] theorem State.raise_err (k : ErrKind) (s : State) : (s.raise k).err = k.code s.cfg.codes := rfl
@[simp] theorem State.raise_phase (k : ErrKind) (s : State) : (s.raise k).phase = s.phase := rfl
@[simp] theorem State.raise_seeds (k : ErrKind) (s : State) : (s.raise k).seeds = s.seeds := rfl
@[simp] theorem State.raise_prng (k : ErrKind) (s : State) : (s.raise k).prng = s.prng := rfl
@[simp] theorem State.raise_nIn (k : ErrKind) (s : State) : (s.raise k).nIn = s.nIn := rfl
@[simp] theorem State.raise_expected (k : ErrKind) (s : State) : (s.raise k).expected = s.expected := rfl
@[simp] theorem State.raise_payLen (k : ErrKind) (s : State) : (s.raise k).payLen = s.payLen := rfl
@[simp] theorem State.raise_pe (k : ErrKind) (s : State) : (s.raise k).pe = s.pe := rfl
@[simp] theorem State.raise_s2 (k : ErrKind) (s : State) : (s.raise k).s2 = s.s2 := rfl
@[simp] theorem State.raise_br (k : ErrKind) (s : State) : (s.raise k).br = s.br := rfl
@[simp] theorem State.raise_ct (k : ErrKind) (s : State) : (s.raise k).ct = s.ct := rfl
@[simp] theorem State.raise_glz (k : ErrKind) (s : State) : (s.raise k).glz = s.glz := rfl
@[simp] theorem State.raise_hdr (k : ErrKind) (s : State) : (s.raise k).hdr = s.hdr := rfl
@[simp] theorem State.raise_buf (k : ErrKind) (s : State) : (s.raise k).buf = s.buf := rfl
@[simp] theorem State.raise_pool (k : ErrKind) (s : State) : (s.raise k).pool = s.pool := rfl
@[simp] theorem State.raise_ord (k : ErrKind) (s : State) : (s.raise k).ord = s.ord := rfl
@[simp] theorem State.raise_tab (k : ErrKind) (s : State) : (s.raise k).tab = s.tab := rfl
@[simp] theorem State.raise_out (k : ErrKind) (s : State) : (s.raise k).out = s.out := rfl
@[simp] theorem State.raise_bufAt (k : ErrKind) (s : State) (x : Nat) : (s.raise k).bufAt x = s.bufAt x := rfl

/-! `State.failWith` -/

@[simp] theorem State.failWith_cfg (code : BitVec 4) (s : State) : (s.failWith code).cfg = s.cfg := rfl
@[simp] theorem State.failWith_host (code : BitVec 4) (s : State) : (s.failWith code).host = s.host := rfl
@[simp] theorem State.failWith_free (code : BitVec 4) (s : State) : (s.failWith code).free = s.free := rfl
@[simp] theorem State.failWith_status (code : BitVec 4) (s : State) : (s.failWith code).status = .failed := rfl
@[simp] theorem State.failWith_err (code : BitVec 4) (s : State) : (s.failWith code).err = code := rfl
@[simp] theorem State.failWith_phase (code : BitVec 4) (s : State) : (s.failWith code).phase = s.phase := rfl
@[simp] theorem State.failWith_seeds (code : BitVec 4) (s : State) : (s.failWith code).seeds = s.seeds := rfl
@[simp] theorem State.failWith_prng (code : BitVec 4) (s : State) : (s.failWith code).prng = s.prng := rfl
@[simp] theorem State.failWith_nIn (code : BitVec 4) (s : State) : (s.failWith code).nIn = s.nIn := rfl
@[simp] theorem State.failWith_expected (code : BitVec 4) (s : State) : (s.failWith code).expected = s.expected := rfl
@[simp] theorem State.failWith_payLen (code : BitVec 4) (s : State) : (s.failWith code).payLen = s.payLen := rfl
@[simp] theorem State.failWith_pe (code : BitVec 4) (s : State) : (s.failWith code).pe = s.pe := rfl
@[simp] theorem State.failWith_s2 (code : BitVec 4) (s : State) : (s.failWith code).s2 = s.s2 := rfl
@[simp] theorem State.failWith_br (code : BitVec 4) (s : State) : (s.failWith code).br = s.br := rfl
@[simp] theorem State.failWith_ct (code : BitVec 4) (s : State) : (s.failWith code).ct = s.ct := rfl
@[simp] theorem State.failWith_glz (code : BitVec 4) (s : State) : (s.failWith code).glz = s.glz := rfl
@[simp] theorem State.failWith_hdr (code : BitVec 4) (s : State) : (s.failWith code).hdr = s.hdr := rfl
@[simp] theorem State.failWith_buf (code : BitVec 4) (s : State) : (s.failWith code).buf = s.buf := rfl
@[simp] theorem State.failWith_pool (code : BitVec 4) (s : State) : (s.failWith code).pool = s.pool := rfl
@[simp] theorem State.failWith_ord (code : BitVec 4) (s : State) : (s.failWith code).ord = s.ord := rfl
@[simp] theorem State.failWith_tab (code : BitVec 4) (s : State) : (s.failWith code).tab = s.tab := rfl
@[simp] theorem State.failWith_out (code : BitVec 4) (s : State) : (s.failWith code).out = s.out := rfl
@[simp] theorem State.failWith_bufAt (code : BitVec 4) (s : State) (x : Nat) : (s.failWith code).bufAt x = s.bufAt x := rfl

/-! `State.enter` -/

@[simp] theorem State.enter_cfg (ph : Phase) (s : State) : (s.enter ph).cfg = s.cfg := rfl
@[simp] theorem State.enter_host (ph : Phase) (s : State) : (s.enter ph).host = s.host := rfl
@[simp] theorem State.enter_free (ph : Phase) (s : State) : (s.enter ph).free = s.free := rfl
@[simp] theorem State.enter_status (ph : Phase) (s : State) : (s.enter ph).status = s.status := rfl
@[simp] theorem State.enter_err (ph : Phase) (s : State) : (s.enter ph).err = s.err := rfl
@[simp] theorem State.enter_phase (ph : Phase) (s : State) : (s.enter ph).phase = ph := rfl
@[simp] theorem State.enter_seeds (ph : Phase) (s : State) : (s.enter ph).seeds = s.seeds := rfl
@[simp] theorem State.enter_prng (ph : Phase) (s : State) : (s.enter ph).prng = s.prng := rfl
@[simp] theorem State.enter_nIn (ph : Phase) (s : State) : (s.enter ph).nIn = s.nIn := rfl
@[simp] theorem State.enter_expected (ph : Phase) (s : State) : (s.enter ph).expected = s.expected := rfl
@[simp] theorem State.enter_payLen (ph : Phase) (s : State) : (s.enter ph).payLen = s.payLen := rfl
@[simp] theorem State.enter_pe (ph : Phase) (s : State) : (s.enter ph).pe = s.pe := rfl
@[simp] theorem State.enter_s2 (ph : Phase) (s : State) : (s.enter ph).s2 = s.s2 := rfl
@[simp] theorem State.enter_br (ph : Phase) (s : State) : (s.enter ph).br = s.br := rfl
@[simp] theorem State.enter_ct (ph : Phase) (s : State) : (s.enter ph).ct = s.ct := rfl
@[simp] theorem State.enter_glz (ph : Phase) (s : State) : (s.enter ph).glz = s.glz := rfl
@[simp] theorem State.enter_hdr (ph : Phase) (s : State) : (s.enter ph).hdr = s.hdr := rfl
@[simp] theorem State.enter_buf (ph : Phase) (s : State) : (s.enter ph).buf = s.buf := rfl
@[simp] theorem State.enter_pool (ph : Phase) (s : State) : (s.enter ph).pool = s.pool := rfl
@[simp] theorem State.enter_ord (ph : Phase) (s : State) : (s.enter ph).ord = s.ord := rfl
@[simp] theorem State.enter_tab (ph : Phase) (s : State) : (s.enter ph).tab = s.tab := rfl
@[simp] theorem State.enter_out (ph : Phase) (s : State) : (s.enter ph).out = s.out := rfl
@[simp] theorem State.enter_bufAt (ph : Phase) (s : State) (x : Nat) : (s.enter ph).bufAt x = s.bufAt x := rfl

/-! `State.advanceTp` -/

@[simp] theorem State.advanceTp_cfg (n : Nat) (s : State) : (s.advanceTp n).cfg = s.cfg := rfl
@[simp] theorem State.advanceTp_host (n : Nat) (s : State) : (s.advanceTp n).host = s.host := rfl
@[simp] theorem State.advanceTp_free (n : Nat) (s : State) : (s.advanceTp n).free = s.free := rfl
@[simp] theorem State.advanceTp_status (n : Nat) (s : State) : (s.advanceTp n).status = s.status := rfl
@[simp] theorem State.advanceTp_err (n : Nat) (s : State) : (s.advanceTp n).err = s.err := rfl
@[simp] theorem State.advanceTp_phase (n : Nat) (s : State) : (s.advanceTp n).phase = s.phase := rfl
@[simp] theorem State.advanceTp_seeds (n : Nat) (s : State) : (s.advanceTp n).seeds = s.seeds := rfl
@[simp] theorem State.advanceTp_prng (n : Nat) (s : State) : (s.advanceTp n).prng = s.prng := rfl
@[simp] theorem State.advanceTp_nIn (n : Nat) (s : State) : (s.advanceTp n).nIn = s.nIn := rfl
@[simp] theorem State.advanceTp_expected (n : Nat) (s : State) : (s.advanceTp n).expected = s.expected := rfl
@[simp] theorem State.advanceTp_payLen (n : Nat) (s : State) : (s.advanceTp n).payLen = s.payLen := rfl
@[simp] theorem State.advanceTp_pe (n : Nat) (s : State) : (s.advanceTp n).pe = s.pe := rfl
@[simp] theorem State.advanceTp_s2 (n : Nat) (s : State) : (s.advanceTp n).s2 = s.s2 := rfl
@[simp] theorem State.advanceTp_br (n : Nat) (s : State) : (s.advanceTp n).br = s.br := rfl
@[simp] theorem State.advanceTp_ct (n : Nat) (s : State) : (s.advanceTp n).ct = s.ct := rfl
@[simp] theorem State.advanceTp_glz_declared (n : Nat) (s : State) : (s.advanceTp n).glz.declared = s.glz.declared := rfl
@[simp] theorem State.advanceTp_glz_lb (n : Nat) (s : State) : (s.advanceTp n).glz.lb = s.glz.lb := rfl
@[simp] theorem State.advanceTp_glz_ld (n : Nat) (s : State) : (s.advanceTp n).glz.ld = s.glz.ld := rfl
@[simp] theorem State.advanceTp_glz_lo (n : Nat) (s : State) : (s.advanceTp n).glz.lo = s.glz.lo := rfl
@[simp] theorem State.advanceTp_glz_dictBase (n : Nat) (s : State) : (s.advanceTp n).glz.dictBase = s.glz.dictBase := rfl
@[simp] theorem State.advanceTp_glz_ovfBase (n : Nat) (s : State) : (s.advanceTp n).glz.ovfBase = s.glz.ovfBase := rfl
@[simp] theorem State.advanceTp_glz_tp (n : Nat) (s : State) : (s.advanceTp n).glz.tp = s.glz.tp + BitVec.ofNat 32 n := rfl
@[simp] theorem State.advanceTp_glz_dp (n : Nat) (s : State) : (s.advanceTp n).glz.dp = s.glz.dp := rfl
@[simp] theorem State.advanceTp_glz_lp (n : Nat) (s : State) : (s.advanceTp n).glz.lp = s.glz.lp := rfl
@[simp] theorem State.advanceTp_glz_wp (n : Nat) (s : State) : (s.advanceTp n).glz.wp = s.glz.wp := rfl
@[simp] theorem State.advanceTp_hdr (n : Nat) (s : State) : (s.advanceTp n).hdr = s.hdr := rfl
@[simp] theorem State.advanceTp_buf (n : Nat) (s : State) : (s.advanceTp n).buf = s.buf := rfl
@[simp] theorem State.advanceTp_pool (n : Nat) (s : State) : (s.advanceTp n).pool = s.pool := rfl
@[simp] theorem State.advanceTp_ord (n : Nat) (s : State) : (s.advanceTp n).ord = s.ord := rfl
@[simp] theorem State.advanceTp_tab (n : Nat) (s : State) : (s.advanceTp n).tab = s.tab := rfl
@[simp] theorem State.advanceTp_out (n : Nat) (s : State) : (s.advanceTp n).out = s.out := rfl
@[simp] theorem State.advanceTp_bufAt (n : Nat) (s : State) (x : Nat) : (s.advanceTp n).bufAt x = s.bufAt x := rfl

/-! `State.pushOut` -/

@[simp] theorem State.pushOut_cfg (b : Byte) (s : State) : (s.pushOut b).cfg = s.cfg := rfl
@[simp] theorem State.pushOut_host (b : Byte) (s : State) : (s.pushOut b).host = s.host := rfl
@[simp] theorem State.pushOut_free (b : Byte) (s : State) : (s.pushOut b).free = s.free := rfl
@[simp] theorem State.pushOut_status (b : Byte) (s : State) : (s.pushOut b).status = s.status := rfl
@[simp] theorem State.pushOut_err (b : Byte) (s : State) : (s.pushOut b).err = s.err := rfl
@[simp] theorem State.pushOut_phase (b : Byte) (s : State) : (s.pushOut b).phase = s.phase := rfl
@[simp] theorem State.pushOut_seeds (b : Byte) (s : State) : (s.pushOut b).seeds = s.seeds := rfl
@[simp] theorem State.pushOut_prng (b : Byte) (s : State) : (s.pushOut b).prng = s.prng := rfl
@[simp] theorem State.pushOut_nIn (b : Byte) (s : State) : (s.pushOut b).nIn = s.nIn := rfl
@[simp] theorem State.pushOut_expected (b : Byte) (s : State) : (s.pushOut b).expected = s.expected := rfl
@[simp] theorem State.pushOut_payLen (b : Byte) (s : State) : (s.pushOut b).payLen = s.payLen := rfl
@[simp] theorem State.pushOut_pe (b : Byte) (s : State) : (s.pushOut b).pe = s.pe := rfl
@[simp] theorem State.pushOut_s2 (b : Byte) (s : State) : (s.pushOut b).s2 = s.s2 := rfl
@[simp] theorem State.pushOut_br (b : Byte) (s : State) : (s.pushOut b).br = s.br := rfl
@[simp] theorem State.pushOut_ct (b : Byte) (s : State) : (s.pushOut b).ct = s.ct := rfl
@[simp] theorem State.pushOut_glz_declared (b : Byte) (s : State) : (s.pushOut b).glz.declared = s.glz.declared := rfl
@[simp] theorem State.pushOut_glz_lb (b : Byte) (s : State) : (s.pushOut b).glz.lb = s.glz.lb := rfl
@[simp] theorem State.pushOut_glz_ld (b : Byte) (s : State) : (s.pushOut b).glz.ld = s.glz.ld := rfl
@[simp] theorem State.pushOut_glz_lo (b : Byte) (s : State) : (s.pushOut b).glz.lo = s.glz.lo := rfl
@[simp] theorem State.pushOut_glz_dictBase (b : Byte) (s : State) : (s.pushOut b).glz.dictBase = s.glz.dictBase := rfl
@[simp] theorem State.pushOut_glz_ovfBase (b : Byte) (s : State) : (s.pushOut b).glz.ovfBase = s.glz.ovfBase := rfl
@[simp] theorem State.pushOut_glz_tp (b : Byte) (s : State) : (s.pushOut b).glz.tp = s.glz.tp := rfl
@[simp] theorem State.pushOut_glz_dp (b : Byte) (s : State) : (s.pushOut b).glz.dp = s.glz.dp := rfl
@[simp] theorem State.pushOut_glz_lp (b : Byte) (s : State) : (s.pushOut b).glz.lp = s.glz.lp := rfl
@[simp] theorem State.pushOut_glz_wp (b : Byte) (s : State) : (s.pushOut b).glz.wp = s.glz.wp + 1 := rfl
@[simp] theorem State.pushOut_hdr (b : Byte) (s : State) : (s.pushOut b).hdr = s.hdr := rfl
@[simp] theorem State.pushOut_buf (b : Byte) (s : State) : (s.pushOut b).buf = s.buf := rfl
@[simp] theorem State.pushOut_pool (b : Byte) (s : State) : (s.pushOut b).pool = s.pool := rfl
@[simp] theorem State.pushOut_ord (b : Byte) (s : State) : (s.pushOut b).ord = s.ord := rfl
@[simp] theorem State.pushOut_tab (b : Byte) (s : State) : (s.pushOut b).tab = s.tab := rfl
@[simp] theorem State.pushOut_out (b : Byte) (s : State) : (s.pushOut b).out = s.out.write s.glz.wp.toNat b := rfl
@[simp] theorem State.pushOut_bufAt (b : Byte) (s : State) (x : Nat) : (s.pushOut b).bufAt x = s.bufAt x := rfl

/-! `State.pushTab` -/

@[simp] theorem State.pushTab_cfg (k : Nat) (v : Byte) (s : State) : (s.pushTab k v).cfg = s.cfg := rfl
@[simp] theorem State.pushTab_host (k : Nat) (v : Byte) (s : State) : (s.pushTab k v).host = s.host := rfl
@[simp] theorem State.pushTab_free (k : Nat) (v : Byte) (s : State) : (s.pushTab k v).free = s.free := rfl
@[simp] theorem State.pushTab_status (k : Nat) (v : Byte) (s : State) : (s.pushTab k v).status = s.status := rfl
@[simp] theorem State.pushTab_err (k : Nat) (v : Byte) (s : State) : (s.pushTab k v).err = s.err := rfl
@[simp] theorem State.pushTab_phase (k : Nat) (v : Byte) (s : State) : (s.pushTab k v).phase = s.phase := rfl
@[simp] theorem State.pushTab_seeds (k : Nat) (v : Byte) (s : State) : (s.pushTab k v).seeds = s.seeds := rfl
@[simp] theorem State.pushTab_prng (k : Nat) (v : Byte) (s : State) : (s.pushTab k v).prng = s.prng := rfl
@[simp] theorem State.pushTab_nIn (k : Nat) (v : Byte) (s : State) : (s.pushTab k v).nIn = s.nIn := rfl
@[simp] theorem State.pushTab_expected (k : Nat) (v : Byte) (s : State) : (s.pushTab k v).expected = s.expected := rfl
@[simp] theorem State.pushTab_payLen (k : Nat) (v : Byte) (s : State) : (s.pushTab k v).payLen = s.payLen := rfl
@[simp] theorem State.pushTab_pe (k : Nat) (v : Byte) (s : State) : (s.pushTab k v).pe = s.pe := rfl
@[simp] theorem State.pushTab_s2 (k : Nat) (v : Byte) (s : State) : (s.pushTab k v).s2 = s.s2 := rfl
@[simp] theorem State.pushTab_br (k : Nat) (v : Byte) (s : State) : (s.pushTab k v).br = s.br := rfl
@[simp] theorem State.pushTab_ct_tlen (k : Nat) (v : Byte) (s : State) : (s.pushTab k v).ct.tlen = s.ct.tlen := rfl
@[simp] theorem State.pushTab_ct_tcount (k : Nat) (v : Byte) (s : State) : (s.pushTab k v).ct.tcount = s.ct.tcount + 1 := rfl
@[simp] theorem State.pushTab_ct_codeLen (k : Nat) (v : Byte) (s : State) : (s.pushTab k v).ct.codeLen = BitVec.ofNat 3 k := rfl
@[simp] theorem State.pushTab_glz (k : Nat) (v : Byte) (s : State) : (s.pushTab k v).glz = s.glz := rfl
@[simp] theorem State.pushTab_hdr (k : Nat) (v : Byte) (s : State) : (s.pushTab k v).hdr = s.hdr := rfl
@[simp] theorem State.pushTab_buf (k : Nat) (v : Byte) (s : State) : (s.pushTab k v).buf = s.buf := rfl
@[simp] theorem State.pushTab_pool (k : Nat) (v : Byte) (s : State) : (s.pushTab k v).pool = s.pool := rfl
@[simp] theorem State.pushTab_ord (k : Nat) (v : Byte) (s : State) : (s.pushTab k v).ord = s.ord := rfl
@[simp] theorem State.pushTab_tab (k : Nat) (v : Byte) (s : State) : (s.pushTab k v).tab = s.tab.write s.ct.tcount.toNat v := rfl
@[simp] theorem State.pushTab_out (k : Nat) (v : Byte) (s : State) : (s.pushTab k v).out = s.out := rfl
@[simp] theorem State.pushTab_bufAt (k : Nat) (v : Byte) (s : State) (x : Nat) : (s.pushTab k v).bufAt x = s.bufAt x := rfl

/-! `State.setBuf` -/

@[simp] theorem State.setBuf_cfg (a : Nat) (v : Byte) (s : State) : (s.setBuf a v).cfg = s.cfg := rfl
@[simp] theorem State.setBuf_host (a : Nat) (v : Byte) (s : State) : (s.setBuf a v).host = s.host := rfl
@[simp] theorem State.setBuf_free (a : Nat) (v : Byte) (s : State) : (s.setBuf a v).free = s.free := rfl
@[simp] theorem State.setBuf_status (a : Nat) (v : Byte) (s : State) : (s.setBuf a v).status = s.status := rfl
@[simp] theorem State.setBuf_err (a : Nat) (v : Byte) (s : State) : (s.setBuf a v).err = s.err := rfl
@[simp] theorem State.setBuf_phase (a : Nat) (v : Byte) (s : State) : (s.setBuf a v).phase = s.phase := rfl
@[simp] theorem State.setBuf_seeds (a : Nat) (v : Byte) (s : State) : (s.setBuf a v).seeds = s.seeds := rfl
@[simp] theorem State.setBuf_prng (a : Nat) (v : Byte) (s : State) : (s.setBuf a v).prng = s.prng := rfl
@[simp] theorem State.setBuf_nIn (a : Nat) (v : Byte) (s : State) : (s.setBuf a v).nIn = s.nIn := rfl
@[simp] theorem State.setBuf_expected (a : Nat) (v : Byte) (s : State) : (s.setBuf a v).expected = s.expected := rfl
@[simp] theorem State.setBuf_payLen (a : Nat) (v : Byte) (s : State) : (s.setBuf a v).payLen = s.payLen := rfl
@[simp] theorem State.setBuf_pe (a : Nat) (v : Byte) (s : State) : (s.setBuf a v).pe = s.pe := rfl
@[simp] theorem State.setBuf_s2 (a : Nat) (v : Byte) (s : State) : (s.setBuf a v).s2 = s.s2 := rfl
@[simp] theorem State.setBuf_br (a : Nat) (v : Byte) (s : State) : (s.setBuf a v).br = s.br := rfl
@[simp] theorem State.setBuf_ct (a : Nat) (v : Byte) (s : State) : (s.setBuf a v).ct = s.ct := rfl
@[simp] theorem State.setBuf_glz (a : Nat) (v : Byte) (s : State) : (s.setBuf a v).glz = s.glz := rfl
@[simp] theorem State.setBuf_hdr (a : Nat) (v : Byte) (s : State) : (s.setBuf a v).hdr = s.hdr := rfl
@[simp] theorem State.setBuf_buf (a : Nat) (v : Byte) (s : State) : (s.setBuf a v).buf = s.buf.write a v := rfl
@[simp] theorem State.setBuf_pool (a : Nat) (v : Byte) (s : State) : (s.setBuf a v).pool = s.pool := rfl
@[simp] theorem State.setBuf_ord (a : Nat) (v : Byte) (s : State) : (s.setBuf a v).ord = s.ord := rfl
@[simp] theorem State.setBuf_tab (a : Nat) (v : Byte) (s : State) : (s.setBuf a v).tab = s.tab := rfl
@[simp] theorem State.setBuf_out (a : Nat) (v : Byte) (s : State) : (s.setBuf a v).out = s.out := rfl

/-! `State.setReader` -/

@[simp] theorem State.setReader_cfg (r : Reader) (s : State) : (s.setReader r).cfg = s.cfg := rfl
@[simp] theorem State.setReader_host (r : Reader) (s : State) : (s.setReader r).host = s.host := rfl
@[simp] theorem State.setReader_free (r : Reader) (s : State) : (s.setReader r).free = s.free := rfl
@[simp] theorem State.setReader_status (r : Reader) (s : State) : (s.setReader r).status = s.status := rfl
@[simp] theorem State.setReader_err (r : Reader) (s : State) : (s.setReader r).err = s.err := rfl
@[simp] theorem State.setReader_phase (r : Reader) (s : State) : (s.setReader r).phase = s.phase := rfl
@[simp] theorem State.setReader_seeds (r : Reader) (s : State) : (s.setReader r).seeds = s.seeds := rfl
@[simp] theorem State.setReader_prng (r : Reader) (s : State) : (s.setReader r).prng = s.prng := rfl
@[simp] theorem State.setReader_nIn (r : Reader) (s : State) : (s.setReader r).nIn = s.nIn := rfl
@[simp] theorem State.setReader_expected (r : Reader) (s : State) : (s.setReader r).expected = s.expected := rfl
@[simp] theorem State.setReader_payLen (r : Reader) (s : State) : (s.setReader r).payLen = s.payLen := rfl
@[simp] theorem State.setReader_pe (r : Reader) (s : State) : (s.setReader r).pe = s.pe := rfl
@[simp] theorem State.setReader_s2 (r : Reader) (s : State) : (s.setReader r).s2 = s.s2 := rfl
@[simp] theorem State.setReader_br (r : Reader) (s : State) : (s.setReader r).br = r := rfl
@[simp] theorem State.setReader_ct (r : Reader) (s : State) : (s.setReader r).ct = s.ct := rfl
@[simp] theorem State.setReader_glz (r : Reader) (s : State) : (s.setReader r).glz = s.glz := rfl
@[simp] theorem State.setReader_hdr (r : Reader) (s : State) : (s.setReader r).hdr = s.hdr := rfl
@[simp] theorem State.setReader_buf (r : Reader) (s : State) : (s.setReader r).buf = s.buf := rfl
@[simp] theorem State.setReader_pool (r : Reader) (s : State) : (s.setReader r).pool = s.pool := rfl
@[simp] theorem State.setReader_ord (r : Reader) (s : State) : (s.setReader r).ord = s.ord := rfl
@[simp] theorem State.setReader_tab (r : Reader) (s : State) : (s.setReader r).tab = s.tab := rfl
@[simp] theorem State.setReader_out (r : Reader) (s : State) : (s.setReader r).out = s.out := rfl
@[simp] theorem State.setReader_bufAt (r : Reader) (s : State) (x : Nat) : (s.setReader r).bufAt x = s.bufAt x := rfl

/-! `State.setPrng` -/

@[simp] theorem State.setPrng_cfg (p : Prng) (s : State) : (s.setPrng p).cfg = s.cfg := rfl
@[simp] theorem State.setPrng_host (p : Prng) (s : State) : (s.setPrng p).host = s.host := rfl
@[simp] theorem State.setPrng_free (p : Prng) (s : State) : (s.setPrng p).free = s.free := rfl
@[simp] theorem State.setPrng_status (p : Prng) (s : State) : (s.setPrng p).status = s.status := rfl
@[simp] theorem State.setPrng_err (p : Prng) (s : State) : (s.setPrng p).err = s.err := rfl
@[simp] theorem State.setPrng_phase (p : Prng) (s : State) : (s.setPrng p).phase = s.phase := rfl
@[simp] theorem State.setPrng_seeds (p : Prng) (s : State) : (s.setPrng p).seeds = s.seeds := rfl
@[simp] theorem State.setPrng_prng (p : Prng) (s : State) : (s.setPrng p).prng = p := rfl
@[simp] theorem State.setPrng_nIn (p : Prng) (s : State) : (s.setPrng p).nIn = s.nIn := rfl
@[simp] theorem State.setPrng_expected (p : Prng) (s : State) : (s.setPrng p).expected = s.expected := rfl
@[simp] theorem State.setPrng_payLen (p : Prng) (s : State) : (s.setPrng p).payLen = s.payLen := rfl
@[simp] theorem State.setPrng_pe (p : Prng) (s : State) : (s.setPrng p).pe = s.pe := rfl
@[simp] theorem State.setPrng_s2 (p : Prng) (s : State) : (s.setPrng p).s2 = s.s2 := rfl
@[simp] theorem State.setPrng_br (p : Prng) (s : State) : (s.setPrng p).br = s.br := rfl
@[simp] theorem State.setPrng_ct (p : Prng) (s : State) : (s.setPrng p).ct = s.ct := rfl
@[simp] theorem State.setPrng_glz (p : Prng) (s : State) : (s.setPrng p).glz = s.glz := rfl
@[simp] theorem State.setPrng_hdr (p : Prng) (s : State) : (s.setPrng p).hdr = s.hdr := rfl
@[simp] theorem State.setPrng_buf (p : Prng) (s : State) : (s.setPrng p).buf = s.buf := rfl
@[simp] theorem State.setPrng_pool (p : Prng) (s : State) : (s.setPrng p).pool = s.pool := rfl
@[simp] theorem State.setPrng_ord (p : Prng) (s : State) : (s.setPrng p).ord = s.ord := rfl
@[simp] theorem State.setPrng_tab (p : Prng) (s : State) : (s.setPrng p).tab = s.tab := rfl
@[simp] theorem State.setPrng_out (p : Prng) (s : State) : (s.setPrng p).out = s.out := rfl
@[simp] theorem State.setPrng_bufAt (p : Prng) (s : State) (x : Nat) : (s.setPrng p).bufAt x = s.bufAt x := rfl

/-! `State.countZero` -/

@[simp] theorem State.countZero_cfg (s : State) : (s.countZero).cfg = s.cfg := rfl
@[simp] theorem State.countZero_host (s : State) : (s.countZero).host = s.host := rfl
@[simp] theorem State.countZero_free (s : State) : (s.countZero).free = s.free := rfl
@[simp] theorem State.countZero_status (s : State) : (s.countZero).status = s.status := rfl
@[simp] theorem State.countZero_err (s : State) : (s.countZero).err = s.err := rfl
@[simp] theorem State.countZero_phase (s : State) : (s.countZero).phase = s.phase := rfl
@[simp] theorem State.countZero_seeds (s : State) : (s.countZero).seeds = s.seeds := rfl
@[simp] theorem State.countZero_prng (s : State) : (s.countZero).prng = s.prng := rfl
@[simp] theorem State.countZero_nIn (s : State) : (s.countZero).nIn = s.nIn := rfl
@[simp] theorem State.countZero_expected (s : State) : (s.countZero).expected = s.expected := rfl
@[simp] theorem State.countZero_payLen (s : State) : (s.countZero).payLen = s.payLen := rfl
@[simp] theorem State.countZero_pe (s : State) : (s.countZero).pe = s.pe := rfl
@[simp] theorem State.countZero_s2 (s : State) : (s.countZero).s2 = s.s2 := rfl
@[simp] theorem State.countZero_br (s : State) : (s.countZero).br = s.br := rfl
@[simp] theorem State.countZero_ct_tlen (s : State) : (s.countZero).ct.tlen = s.ct.tlen := rfl
@[simp] theorem State.countZero_ct_tcount (s : State) : (s.countZero).ct.tcount = s.ct.tcount := rfl
@[simp] theorem State.countZero_ct_codeLen (s : State) : (s.countZero).ct.codeLen = s.ct.codeLen + 1 := rfl
@[simp] theorem State.countZero_glz (s : State) : (s.countZero).glz = s.glz := rfl
@[simp] theorem State.countZero_hdr (s : State) : (s.countZero).hdr = s.hdr := rfl
@[simp] theorem State.countZero_buf (s : State) : (s.countZero).buf = s.buf := rfl
@[simp] theorem State.countZero_pool (s : State) : (s.countZero).pool = s.pool := rfl
@[simp] theorem State.countZero_ord (s : State) : (s.countZero).ord = s.ord := rfl
@[simp] theorem State.countZero_tab (s : State) : (s.countZero).tab = s.tab := rfl
@[simp] theorem State.countZero_out (s : State) : (s.countZero).out = s.out := rfl
@[simp] theorem State.countZero_bufAt (s : State) (x : Nat) : (s.countZero).bufAt x = s.bufAt x := rfl

/-! `State.closeTable` -/

@[simp] theorem State.closeTable_cfg (s : State) : (s.closeTable).cfg = s.cfg := rfl
@[simp] theorem State.closeTable_host (s : State) : (s.closeTable).host = s.host := rfl
@[simp] theorem State.closeTable_free (s : State) : (s.closeTable).free = s.free := rfl
@[simp] theorem State.closeTable_status (s : State) : (s.closeTable).status = s.status := rfl
@[simp] theorem State.closeTable_err (s : State) : (s.closeTable).err = s.err := rfl
@[simp] theorem State.closeTable_phase (s : State) : (s.closeTable).phase = .glzRun := rfl
@[simp] theorem State.closeTable_seeds (s : State) : (s.closeTable).seeds = s.seeds := rfl
@[simp] theorem State.closeTable_prng (s : State) : (s.closeTable).prng = s.prng := rfl
@[simp] theorem State.closeTable_nIn (s : State) : (s.closeTable).nIn = s.nIn := rfl
@[simp] theorem State.closeTable_expected (s : State) : (s.closeTable).expected = s.expected := rfl
@[simp] theorem State.closeTable_payLen (s : State) : (s.closeTable).payLen = s.payLen := rfl
@[simp] theorem State.closeTable_pe (s : State) : (s.closeTable).pe = s.pe := rfl
@[simp] theorem State.closeTable_s2 (s : State) : (s.closeTable).s2 = s.s2 := rfl
@[simp] theorem State.closeTable_br (s : State) : (s.closeTable).br = s.br := rfl
@[simp] theorem State.closeTable_ct (s : State) : (s.closeTable).ct = s.ct := rfl
@[simp] theorem State.closeTable_glz_declared (s : State) : (s.closeTable).glz.declared = s.glz.declared := rfl
@[simp] theorem State.closeTable_glz_lb (s : State) : (s.closeTable).glz.lb = s.glz.lb := rfl
@[simp] theorem State.closeTable_glz_ld (s : State) : (s.closeTable).glz.ld = s.glz.ld := rfl
@[simp] theorem State.closeTable_glz_lo (s : State) : (s.closeTable).glz.lo = s.glz.lo := rfl
@[simp] theorem State.closeTable_glz_dictBase (s : State) : (s.closeTable).glz.dictBase = s.glz.dictBase := rfl
@[simp] theorem State.closeTable_glz_ovfBase (s : State) : (s.closeTable).glz.ovfBase = s.glz.ovfBase := rfl
@[simp] theorem State.closeTable_glz_tp (s : State) : (s.closeTable).glz.tp = 0 := rfl
@[simp] theorem State.closeTable_glz_dp (s : State) : (s.closeTable).glz.dp = 0 := rfl
@[simp] theorem State.closeTable_glz_lp (s : State) : (s.closeTable).glz.lp = 0 := rfl
@[simp] theorem State.closeTable_glz_wp (s : State) : (s.closeTable).glz.wp = 0 := rfl
@[simp] theorem State.closeTable_hdr (s : State) : (s.closeTable).hdr = s.hdr := rfl
@[simp] theorem State.closeTable_buf (s : State) : (s.closeTable).buf = s.buf := rfl
@[simp] theorem State.closeTable_pool (s : State) : (s.closeTable).pool = s.pool := rfl
@[simp] theorem State.closeTable_ord (s : State) : (s.closeTable).ord = s.ord := rfl
@[simp] theorem State.closeTable_tab (s : State) : (s.closeTable).tab = s.tab := rfl
@[simp] theorem State.closeTable_out (s : State) : (s.closeTable).out = s.out := rfl
@[simp] theorem State.closeTable_bufAt (s : State) (x : Nat) : (s.closeTable).bufAt x = s.bufAt x := rfl

/-! `State.finish` -/

@[simp] theorem State.finish_cfg (s : State) : (s.finish).cfg = s.cfg := rfl
@[simp] theorem State.finish_host (s : State) : (s.finish).host = s.host := rfl
@[simp] theorem State.finish_free (s : State) : (s.finish).free = s.free := rfl
@[simp] theorem State.finish_status (s : State) : (s.finish).status = .done := rfl
@[simp] theorem State.finish_err (s : State) : (s.finish).err = s.err := rfl
@[simp] theorem State.finish_phase (s : State) : (s.finish).phase = .finished := rfl
@[simp] theorem State.finish_seeds (s : State) : (s.finish).seeds = s.seeds := rfl
@[simp] theorem State.finish_prng (s : State) : (s.finish).prng = s.prng := rfl
@[simp] theorem State.finish_nIn (s : State) : (s.finish).nIn = s.nIn := rfl
@[simp] theorem State.finish_expected (s : State) : (s.finish).expected = s.expected := rfl
@[simp] theorem State.finish_payLen (s : State) : (s.finish).payLen = s.payLen := rfl
@[simp] theorem State.finish_pe (s : State) : (s.finish).pe = s.pe := rfl
@[simp] theorem State.finish_s2 (s : State) : (s.finish).s2 = s.s2 := rfl
@[simp] theorem State.finish_br (s : State) : (s.finish).br = s.br := rfl
@[simp] theorem State.finish_ct (s : State) : (s.finish).ct = s.ct := rfl
@[simp] theorem State.finish_glz (s : State) : (s.finish).glz = s.glz := rfl
@[simp] theorem State.finish_hdr (s : State) : (s.finish).hdr = s.hdr := rfl
@[simp] theorem State.finish_buf (s : State) : (s.finish).buf = s.buf := rfl
@[simp] theorem State.finish_pool (s : State) : (s.finish).pool = s.pool := rfl
@[simp] theorem State.finish_ord (s : State) : (s.finish).ord = s.ord := rfl
@[simp] theorem State.finish_tab (s : State) : (s.finish).tab = s.tab := rfl
@[simp] theorem State.finish_out (s : State) : (s.finish).out = s.out := rfl
@[simp] theorem State.finish_bufAt (s : State) (x : Nat) : (s.finish).bufAt x = s.bufAt x := rfl

/-! `State.start` -/

@[simp] theorem State.start_cfg (s : State) : (s.start).cfg = s.cfg := rfl
@[simp] theorem State.start_host (s : State) : (s.start).host = s.host := rfl
@[simp] theorem State.start_free (s : State) : (s.start).free = s.free := rfl
@[simp] theorem State.start_status (s : State) : (s.start).status = .busy := rfl
@[simp] theorem State.start_err (s : State) : (s.start).err = 0 := rfl
@[simp] theorem State.start_phase (s : State) : (s.start).phase = .hdr := rfl
@[simp] theorem State.start_seeds (s : State) : (s.start).seeds = s.seeds := rfl
@[simp] theorem State.start_prng (s : State) : (s.start).prng = s.prng := rfl
@[simp] theorem State.start_nIn (s : State) : (s.start).nIn = s.nIn := rfl
@[simp] theorem State.start_expected (s : State) : (s.start).expected = s.expected := rfl
@[simp] theorem State.start_payLen (s : State) : (s.start).payLen = s.payLen := rfl
@[simp] theorem State.start_pe (s : State) : (s.start).pe = s.pe := rfl
@[simp] theorem State.start_s2 (s : State) : (s.start).s2 = s.s2 := rfl
@[simp] theorem State.start_br (s : State) : (s.start).br = s.br := rfl
@[simp] theorem State.start_ct (s : State) : (s.start).ct = s.ct := rfl
@[simp] theorem State.start_glz (s : State) : (s.start).glz = s.glz := rfl
@[simp] theorem State.start_hdr (s : State) : (s.start).hdr = s.hdr := rfl
@[simp] theorem State.start_buf (s : State) : (s.start).buf = s.buf := rfl
@[simp] theorem State.start_pool (s : State) : (s.start).pool = [] := rfl
@[simp] theorem State.start_ord (s : State) : (s.start).ord = [] := rfl
@[simp] theorem State.start_tab (s : State) : (s.start).tab = [] := rfl
@[simp] theorem State.start_out (s : State) : (s.start).out = [] := rfl
@[simp] theorem State.start_bufAt (s : State) (x : Nat) : (s.start).bufAt x = s.bufAt x := rfl

/-! `State.loadContainer` -/

@[simp] theorem State.loadContainer_cfg (bytes : List Byte) (s : State) : (s.loadContainer bytes).cfg = s.cfg := rfl
@[simp] theorem State.loadContainer_host (bytes : List Byte) (s : State) : (s.loadContainer bytes).host = s.host := rfl
@[simp] theorem State.loadContainer_free (bytes : List Byte) (s : State) : (s.loadContainer bytes).free = s.free := rfl
@[simp] theorem State.loadContainer_status (bytes : List Byte) (s : State) : (s.loadContainer bytes).status = s.status := rfl
@[simp] theorem State.loadContainer_err (bytes : List Byte) (s : State) : (s.loadContainer bytes).err = s.err := rfl
@[simp] theorem State.loadContainer_phase (bytes : List Byte) (s : State) : (s.loadContainer bytes).phase = s.phase := rfl
@[simp] theorem State.loadContainer_seeds (bytes : List Byte) (s : State) : (s.loadContainer bytes).seeds = s.seeds := rfl
@[simp] theorem State.loadContainer_prng (bytes : List Byte) (s : State) : (s.loadContainer bytes).prng = s.prng := rfl
@[simp] theorem State.loadContainer_nIn (bytes : List Byte) (s : State) : (s.loadContainer bytes).nIn = BitVec.ofNat 32 bytes.length := rfl
@[simp] theorem State.loadContainer_expected (bytes : List Byte) (s : State) : (s.loadContainer bytes).expected = s.expected := rfl
@[simp] theorem State.loadContainer_payLen (bytes : List Byte) (s : State) : (s.loadContainer bytes).payLen = s.payLen := rfl
@[simp] theorem State.loadContainer_pe (bytes : List Byte) (s : State) : (s.loadContainer bytes).pe = s.pe := rfl
@[simp] theorem State.loadContainer_s2 (bytes : List Byte) (s : State) : (s.loadContainer bytes).s2 = s.s2 := rfl
@[simp] theorem State.loadContainer_br (bytes : List Byte) (s : State) : (s.loadContainer bytes).br = s.br := rfl
@[simp] theorem State.loadContainer_ct (bytes : List Byte) (s : State) : (s.loadContainer bytes).ct = s.ct := rfl
@[simp] theorem State.loadContainer_glz (bytes : List Byte) (s : State) : (s.loadContainer bytes).glz = s.glz := rfl
@[simp] theorem State.loadContainer_hdr (bytes : List Byte) (s : State) : (s.loadContainer bytes).hdr = Memory.ofBytes 0 (bytes.take Params.headerLen) := rfl
@[simp] theorem State.loadContainer_buf (bytes : List Byte) (s : State) : (s.loadContainer bytes).buf = Memory.ofBytes 0 (bytes.drop Params.headerLen) := rfl
@[simp] theorem State.loadContainer_pool (bytes : List Byte) (s : State) : (s.loadContainer bytes).pool = s.pool := rfl
@[simp] theorem State.loadContainer_ord (bytes : List Byte) (s : State) : (s.loadContainer bytes).ord = s.ord := rfl
@[simp] theorem State.loadContainer_tab (bytes : List Byte) (s : State) : (s.loadContainer bytes).tab = s.tab := rfl
@[simp] theorem State.loadContainer_out (bytes : List Byte) (s : State) : (s.loadContainer bytes).out = s.out := rfl

/-! `State.loadSeeds` -/

@[simp] theorem State.loadSeeds_cfg (seeds : SeedSet) (s : State) : (s.loadSeeds seeds).cfg = s.cfg := rfl
@[simp] theorem State.loadSeeds_host (seeds : SeedSet) (s : State) : (s.loadSeeds seeds).host = s.host := rfl
@[simp] theorem State.loadSeeds_free (seeds : SeedSet) (s : State) : (s.loadSeeds seeds).free = s.free := rfl
@[simp] theorem State.loadSeeds_status (seeds : SeedSet) (s : State) : (s.loadSeeds seeds).status = s.status := rfl
@[simp] theorem State.loadSeeds_err (seeds : SeedSet) (s : State) : (s.loadSeeds seeds).err = s.err := rfl
@[simp] theorem State.loadSeeds_phase (seeds : SeedSet) (s : State) : (s.loadSeeds seeds).phase = s.phase := rfl
@[simp] theorem State.loadSeeds_seeds (seeds : SeedSet) (s : State) : (s.loadSeeds seeds).seeds = seeds := rfl
@[simp] theorem State.loadSeeds_prng (seeds : SeedSet) (s : State) : (s.loadSeeds seeds).prng = s.prng := rfl
@[simp] theorem State.loadSeeds_nIn (seeds : SeedSet) (s : State) : (s.loadSeeds seeds).nIn = s.nIn := rfl
@[simp] theorem State.loadSeeds_expected (seeds : SeedSet) (s : State) : (s.loadSeeds seeds).expected = s.expected := rfl
@[simp] theorem State.loadSeeds_payLen (seeds : SeedSet) (s : State) : (s.loadSeeds seeds).payLen = s.payLen := rfl
@[simp] theorem State.loadSeeds_pe (seeds : SeedSet) (s : State) : (s.loadSeeds seeds).pe = s.pe := rfl
@[simp] theorem State.loadSeeds_s2 (seeds : SeedSet) (s : State) : (s.loadSeeds seeds).s2 = s.s2 := rfl
@[simp] theorem State.loadSeeds_br (seeds : SeedSet) (s : State) : (s.loadSeeds seeds).br = s.br := rfl
@[simp] theorem State.loadSeeds_ct (seeds : SeedSet) (s : State) : (s.loadSeeds seeds).ct = s.ct := rfl
@[simp] theorem State.loadSeeds_glz (seeds : SeedSet) (s : State) : (s.loadSeeds seeds).glz = s.glz := rfl
@[simp] theorem State.loadSeeds_hdr (seeds : SeedSet) (s : State) : (s.loadSeeds seeds).hdr = s.hdr := rfl
@[simp] theorem State.loadSeeds_buf (seeds : SeedSet) (s : State) : (s.loadSeeds seeds).buf = s.buf := rfl
@[simp] theorem State.loadSeeds_pool (seeds : SeedSet) (s : State) : (s.loadSeeds seeds).pool = s.pool := rfl
@[simp] theorem State.loadSeeds_ord (seeds : SeedSet) (s : State) : (s.loadSeeds seeds).ord = s.ord := rfl
@[simp] theorem State.loadSeeds_tab (seeds : SeedSet) (s : State) : (s.loadSeeds seeds).tab = s.tab := rfl
@[simp] theorem State.loadSeeds_out (seeds : SeedSet) (s : State) : (s.loadSeeds seeds).out = s.out := rfl
@[simp] theorem State.loadSeeds_bufAt (seeds : SeedSet) (s : State) (x : Nat) : (s.loadSeeds seeds).bufAt x = s.bufAt x := rfl

/-! `State.loadTable` -/

@[simp] theorem State.loadTable_cfg (table : Triple) (s : State) : (s.loadTable table).cfg = s.cfg := rfl
@[simp] theorem State.loadTable_host (table : Triple) (s : State) : (s.loadTable table).host = s.host := rfl
@[simp] theorem State.loadTable_free (table : Triple) (s : State) : (s.loadTable table).free = s.free := rfl
@[simp] theorem State.loadTable_status (table : Triple) (s : State) : (s.loadTable table).status = s.status := rfl
@[simp] theorem State.loadTable_err (table : Triple) (s : State) : (s.loadTable table).err = s.err := rfl
@[simp] theorem State.loadTable_phase (table : Triple) (s : State) : (s.loadTable table).phase = s.phase := rfl
@[simp] theorem State.loadTable_seeds_main (table : Triple) (s : State) : (s.loadTable table).seeds.main = s.seeds.main := rfl
@[simp] theorem State.loadTable_seeds_table (table : Triple) (s : State) : (s.loadTable table).seeds.table = table := rfl
@[simp] theorem State.loadTable_seeds_length (table : Triple) (s : State) : (s.loadTable table).seeds.length = s.seeds.length := rfl
@[simp] theorem State.loadTable_seeds_fence (table : Triple) (s : State) : (s.loadTable table).seeds.fence = s.seeds.fence := rfl
@[simp] theorem State.loadTable_prng (table : Triple) (s : State) : (s.loadTable table).prng = s.prng := rfl
@[simp] theorem State.loadTable_nIn (table : Triple) (s : State) : (s.loadTable table).nIn = s.nIn := rfl
@[simp] theorem State.loadTable_expected (table : Triple) (s : State) : (s.loadTable table).expected = s.expected := rfl
@[simp] theorem State.loadTable_payLen (table : Triple) (s : State) : (s.loadTable table).payLen = s.payLen := rfl
@[simp] theorem State.loadTable_pe (table : Triple) (s : State) : (s.loadTable table).pe = s.pe := rfl
@[simp] theorem State.loadTable_s2 (table : Triple) (s : State) : (s.loadTable table).s2 = s.s2 := rfl
@[simp] theorem State.loadTable_br (table : Triple) (s : State) : (s.loadTable table).br = s.br := rfl
@[simp] theorem State.loadTable_ct (table : Triple) (s : State) : (s.loadTable table).ct = s.ct := rfl
@[simp] theorem State.loadTable_glz (table : Triple) (s : State) : (s.loadTable table).glz = s.glz := rfl
@[simp] theorem State.loadTable_hdr (table : Triple) (s : State) : (s.loadTable table).hdr = s.hdr := rfl
@[simp] theorem State.loadTable_buf (table : Triple) (s : State) : (s.loadTable table).buf = s.buf := rfl
@[simp] theorem State.loadTable_pool (table : Triple) (s : State) : (s.loadTable table).pool = s.pool := rfl
@[simp] theorem State.loadTable_ord (table : Triple) (s : State) : (s.loadTable table).ord = s.ord := rfl
@[simp] theorem State.loadTable_tab (table : Triple) (s : State) : (s.loadTable table).tab = s.tab := rfl
@[simp] theorem State.loadTable_out (table : Triple) (s : State) : (s.loadTable table).out = s.out := rfl
@[simp] theorem State.loadTable_bufAt (table : Triple) (s : State) (x : Nat) : (s.loadTable table).bufAt x = s.bufAt x := rfl

/-! `initReader` -/

@[simp] theorem initReader_cfg (base len : Word) (s : State) : (initReader base len s).cfg = s.cfg := rfl
@[simp] theorem initReader_host (base len : Word) (s : State) : (initReader base len s).host = s.host := rfl
@[simp] theorem initReader_free (base len : Word) (s : State) : (initReader base len s).free = s.free + 1 := rfl
@[simp] theorem initReader_status (base len : Word) (s : State) : (initReader base len s).status = s.status := rfl
@[simp] theorem initReader_err (base len : Word) (s : State) : (initReader base len s).err = s.err := rfl
@[simp] theorem initReader_phase (base len : Word) (s : State) : (initReader base len s).phase = s.phase := rfl
@[simp] theorem initReader_seeds (base len : Word) (s : State) : (initReader base len s).seeds = s.seeds := rfl
@[simp] theorem initReader_prng (base len : Word) (s : State) : (initReader base len s).prng = s.prng := rfl
@[simp] theorem initReader_nIn (base len : Word) (s : State) : (initReader base len s).nIn = s.nIn := rfl
@[simp] theorem initReader_expected (base len : Word) (s : State) : (initReader base len s).expected = s.expected := rfl
@[simp] theorem initReader_payLen (base len : Word) (s : State) : (initReader base len s).payLen = s.payLen := rfl
@[simp] theorem initReader_pe (base len : Word) (s : State) : (initReader base len s).pe = s.pe := rfl
@[simp] theorem initReader_s2 (base len : Word) (s : State) : (initReader base len s).s2 = s.s2 := rfl
@[simp] theorem initReader_br (base len : Word) (s : State) : (initReader base len s).br = { base := base, len := len, cur := 0, bitbuf := Config.freeByte s.free, mask := 0 } :=
    rfl
@[simp] theorem initReader_ct (base len : Word) (s : State) : (initReader base len s).ct = s.ct := rfl
@[simp] theorem initReader_glz (base len : Word) (s : State) : (initReader base len s).glz = s.glz := rfl
@[simp] theorem initReader_hdr (base len : Word) (s : State) : (initReader base len s).hdr = s.hdr := rfl
@[simp] theorem initReader_buf (base len : Word) (s : State) : (initReader base len s).buf = s.buf := rfl
@[simp] theorem initReader_pool (base len : Word) (s : State) : (initReader base len s).pool = s.pool := rfl
@[simp] theorem initReader_ord (base len : Word) (s : State) : (initReader base len s).ord = s.ord := rfl
@[simp] theorem initReader_tab (base len : Word) (s : State) : (initReader base len s).tab = s.tab := rfl
@[simp] theorem initReader_out (base len : Word) (s : State) : (initReader base len s).out = s.out := rfl

end Sys2Proof.Machine
end

