-- ==== Sys2Proof/Laws/Memory.lean ====
section
/-! SUPPORT. The laws of a byte memory: read after write, and that every memory operation keeps the canonical form. -/

namespace Sys2Proof.Machine

@[simp] theorem Memory.read_nil (a : Nat) : Memory.read [] a = none := rfl

theorem Memory.read_cons (b : Nat) (v : Byte) (m : Memory) (a : Nat) :
    Memory.read ((b, v) :: m) a = if b = a then some v else Memory.read m a := rfl

/-- A read after a write: the value at the address written, the old byte everywhere else. -/
theorem Memory.read_write (m : Memory) (a : Nat) (v : Byte) (x : Nat) :
    Memory.read (Memory.write m a v) x = if a = x then some v else Memory.read m x := by
  induction m with
  | nil => simp [Memory.write, Memory.read_cons]
  | cons c m ih =>
    obtain ⟨b, w⟩ := c
    simp only [Memory.write]
    split
    · simp [Memory.read_cons]
    · split
      · subst_vars
        simp only [Memory.read_cons]
        split <;> simp_all
      · simp only [Memory.read_cons, ih]
        split <;> split <;> simp_all

@[simp] theorem Memory.read_write_same (m : Memory) (a : Nat) (v : Byte) :
    Memory.read (Memory.write m a v) a = some v := by simp [Memory.read_write]

theorem Memory.read_write_other (m : Memory) (a : Nat) (v : Byte) (x : Nat) (h : a ≠ x) :
    Memory.read (Memory.write m a v) x = Memory.read m x := by simp [Memory.read_write, h]

/-- The cells of a memory after a write: the one written and old ones. -/
theorem Memory.mem_write {m : Memory} {a : Nat} {v : Byte} {c : Host.Cell} (h : c ∈ Memory.write m a v) :
    c = (a, v) ∨ c ∈ m := by
  induction m with
  | nil => simpa [Memory.write] using h
  | cons d m ih =>
    obtain ⟨b, w⟩ := d
    simp only [Memory.write] at h
    split at h
    · simpa using h
    · split at h
      · simp only [List.mem_cons] at h ⊢
        tauto
      · simp only [List.mem_cons] at h ⊢
        rcases h with h | h
        · exact .inr (.inl h)
        · rcases ih h with h | h <;> tauto

/-- A write keeps the canonical form. -/
theorem Memory.write_wf {m : Memory} (h : Memory.wf m) (a : Nat) (v : Byte) : Memory.wf (Memory.write m a v) := by
  induction m with
  | nil => simp [Memory.write, Memory.wf]
  | cons d m ih =>
    obtain ⟨b, w⟩ := d
    obtain ⟨hb, hm⟩ := List.pairwise_cons.mp h
    simp only [Memory.write]
    split
    · rename_i hab
      refine List.pairwise_cons.mpr ⟨fun c hc => ?_, h⟩
      rcases List.mem_cons.mp hc with rfl | hc
      · exact hab
      · exact Nat.lt_trans hab (hb c hc)
    · split
      · subst_vars
        exact List.pairwise_cons.mpr ⟨hb, hm⟩
      · refine List.pairwise_cons.mpr ⟨fun c hc => ?_, ih hm⟩
        rcases Memory.mem_write hc with rfl | hc
        · show b < a
          omega
        · exact hb c hc

theorem Memory.writeBytes_wf {m : Memory} (h : Memory.wf m) (a : Nat) (vs : List Byte) :
    Memory.wf (Memory.writeBytes m a vs) := by
  induction vs generalizing m a with
  | nil => exact h
  | cons v vs ih => exact ih (Memory.write_wf h a v) (a + 1)

theorem Memory.le_of_mem_ofBytes {a : Nat} {vs : List Byte} {c : Host.Cell} (h : c ∈ Memory.ofBytes a vs) :
    a ≤ c.1 := by
  induction vs generalizing a with
  | nil => simp [Memory.ofBytes] at h
  | cons v vs ih =>
    rcases List.mem_cons.mp h with rfl | h
    · exact Nat.le_refl _
    · exact Nat.le_of_succ_le (ih h)

theorem Memory.ofBytes_wf (a : Nat) (vs : List Byte) : Memory.wf (Memory.ofBytes a vs) := by
  induction vs generalizing a with
  | nil => exact List.Pairwise.nil
  | cons v vs ih =>
    exact List.pairwise_cons.mpr ⟨fun c hc => Memory.le_of_mem_ofBytes hc, ih (a + 1)⟩

/-- Consecutive bytes read back: byte `x - a` of the list at address `x`. -/
theorem Memory.read_ofBytes (a : Nat) (vs : List Byte) (x : Nat) :
    Memory.read (Memory.ofBytes a vs) x = if a ≤ x then vs[x - a]? else none := by
  induction vs generalizing a with
  | nil => simp [Memory.ofBytes]
  | cons v vs ih =>
    simp only [Memory.ofBytes, Memory.read_cons, ih]
    by_cases h : a = x
    · simp [h]
    · by_cases h' : a + 1 ≤ x
      · have : x - a = x - (a + 1) + 1 := by omega
        simp [h, h', this, Nat.le_of_succ_le h']
      · have : ¬ a ≤ x := by omega
        simp [h, h', this]

/-- In canonical form a listed cell is what a read of its address gives. -/
theorem Memory.read_of_mem {m : Memory} (h : Memory.wf m) {c : Host.Cell} (hc : c ∈ m) :
    Memory.read m c.1 = some c.2 := by
  induction m with
  | nil => simp at hc
  | cons d m ih =>
    obtain ⟨b, w⟩ := d
    obtain ⟨hb, hm⟩ := List.pairwise_cons.mp h
    rcases List.mem_cons.mp hc with rfl | hc
    · simp [Memory.read_cons]
    · have := hb c hc
      have hne : b ≠ c.1 := by
        have : b < c.1 := this
        omega
      simp [Memory.read_cons, hne, ih hm hc]

/-- What a read gives is a listed cell. -/
theorem Memory.mem_of_read {m : Memory} {a : Nat} {v : Byte} (h : Memory.read m a = some v) : (a, v) ∈ m := by
  induction m with
  | nil => simp at h
  | cons d m ih =>
    obtain ⟨b, w⟩ := d
    simp only [Memory.read_cons] at h
    split at h
    · simp_all
    · exact List.mem_cons_of_mem _ (ih h)

/-- Two memories in canonical form that read alike are equal. -/
theorem Memory.eq_of_read {m n : Memory} (hm : Memory.wf m) (hn : Memory.wf n)
    (h : ∀ a, Memory.read m a = Memory.read n a) : m = n := by
  have key : ∀ c, c ∈ m ↔ c ∈ n := fun c =>
    ⟨fun hc => Memory.mem_of_read (h c.1 ▸ Memory.read_of_mem hm hc),
      fun hc => Memory.mem_of_read ((h c.1).symm ▸ Memory.read_of_mem hn hc)⟩
  have hlt : ∀ {l : Memory}, Memory.wf l → l.Nodup := fun hl =>
    hl.imp (fun {c d} hcd => fun hh => by subst hh; exact Nat.lt_irrefl _ hcd)
  refine List.Perm.eq_of_pairwise (le := fun c d => c.1 < d.1) ?_ hm hn
    ((List.perm_ext_iff_of_nodup (hlt hm) (hlt hn)).mpr key)
  intro c d _ _ h1 h2
  exact absurd (Nat.lt_trans h1 h2) (Nat.lt_irrefl _)

/-- A write adds to what is covered and takes nothing away. -/
theorem Memory.Covers.write {m : Memory} {n : Nat} (h : Memory.Covers m n) (a : Nat) (v : Byte) :
    Memory.Covers (Memory.write m a v) n := by
  intro x hx
  rw [Memory.read_write]
  split
  · rfl
  · exact h x hx

/-- Writing the next cell covers one more. -/
theorem Memory.Covers.write_next {m : Memory} {n : Nat} (h : Memory.Covers m n) (v : Byte) :
    Memory.Covers (Memory.write m n v) (n + 1) := by
  intro x hx
  rw [Memory.read_write]
  split
  · rfl
  · exact h x (by omega)

/-- The loaded container is covered to its end. -/
theorem Memory.covers_ofBytes (vs : List Byte) : Memory.Covers (Memory.ofBytes 0 vs) vs.length := by
  intro x hx
  simp [Memory.read_ofBytes, hx]

end Sys2Proof.Machine
end

