-- ==== Sys2Proof/Laws/Ops.lean ====
section
/-! SUPPORT. One lemma per shared operation that says what it can do: what it answers, and what it leaves of the state.
Later proofs cite these and do not unfold the operations. -/

namespace Sys2Proof.Machine

/-! ## Results -/

section
variable {α β : Type} {r : Result α} {f : α → State → Result β}

@[simp] theorem Result.ok_andThen (a : α) (s : State) : (Result.ok a s).andThen f = f a s := rfl

@[simp] theorem Result.raised_andThen (k : ErrKind) (s : State) :
    (Result.raised k s : Result α).andThen f = .raised k s := rfl

@[simp] theorem Result.stuck_andThen (x : Fault) : (Result.stuck x : Result α).andThen f = .stuck x := rfl

theorem Result.andThen_eq_ok {b : β} {t : State} :
    r.andThen f = .ok b t ↔ ∃ a u, r = .ok a u ∧ f a u = .ok b t := by
  cases r <;> simp

theorem Result.andThen_eq_raised {k : ErrKind} {t : State} :
    r.andThen f = .raised k t ↔ r = .raised k t ∨ ∃ a u, r = .ok a u ∧ f a u = .raised k t := by
  cases r <;> simp

theorem Result.andThen_eq_stuck {x : Fault} :
    r.andThen f = .stuck x ↔ r = .stuck x ∨ ∃ a u, r = .ok a u ∧ f a u = .stuck x := by
  cases r <;> simp

theorem Result.leaves_ok {a : α} {s t : State} : (Result.ok a s).Leaves t ↔ t = s := by
  simp [Result.Leaves, eq_comm]

theorem Result.leaves_raised {k : ErrKind} {s t : State} : (Result.raised k s : Result α).Leaves t ↔ t = s := by
  simp [Result.Leaves, eq_comm]

theorem Result.leaves_stuck {x : Fault} {t : State} : ¬ (Result.stuck x : Result α).Leaves t := by
  simp [Result.Leaves]

/-- A sequence leaves what its first part leaves on raising, or what its second part leaves. -/
theorem Result.andThen_leaves {t : State} (h : (r.andThen f).Leaves t) :
    r.Leaves t ∨ ∃ a u, r = .ok a u ∧ (f a u).Leaves t := by
  cases r with
  | ok a s => exact .inr ⟨a, s, rfl, h⟩
  | raised k s => exact .inl (.inr ⟨k, by simpa [Result.leaves_raised, eq_comm] using h⟩)
  | stuck x => exact absurd h Result.leaves_stuck

/-- A relation that every part keeps, a sequence keeps. -/
theorem Result.andThen_keeps {R : State → State → Prop} (trans : ∀ {a b c}, R a b → R b c → R a c) {s t : State}
    (hr : ∀ u, r.Leaves u → R s u) (hf : ∀ a u v, r = .ok a u → (f a u).Leaves v → R u v)
    (h : (r.andThen f).Leaves t) : R s t := by
  rcases Result.andThen_leaves h with h | ⟨a, u, hu, h⟩
  · exact hr t h
  · exact trans (hr u (.inl ⟨a, hu⟩)) (hf a u t hu h)
end

/-- A meaning answers a next state: the operation went on, or the fault it raised was taken. -/
theorem Result.toOutcome_eq_next {r : Result Unit} {t : State} :
    r.toOutcome = .next t ↔ r = .ok () t ∨ ∃ k u, r = .raised k u ∧ t = u.raise k := by
  cases r <;> simp [Result.toOutcome, eq_comm]

theorem Result.toOutcome_ne_refused {r : Result Unit} {x : Refusal} : r.toOutcome ≠ .refused x := by
  cases r <;> simp [Result.toOutcome]

theorem Result.toOutcome_eq_fault {r : Result Unit} {x : Fault} : r.toOutcome = .fault x ↔ r = .stuck x := by
  cases r <;> simp [Result.toOutcome]

/-! ## `BUF` and `HDR` -/

theorem readBuf_eq_ok {a : Nat} {s t : State} {v : Byte} :
    readBuf a s = .ok v t ↔ s.bufAt a = some v ∧ t = s := by
  unfold readBuf
  cases s.bufAt a <;> simp [eq_comm]

theorem readBuf_leaves {a : Nat} {s t : State} (h : (readBuf a s).Leaves t) : t = s := by
  unfold readBuf at h
  cases hb : s.bufAt a <;> simp_all [Result.leaves_ok, Result.leaves_stuck]

theorem writeBuf_eq_ok {a : Nat} {v : Byte} {s t : State} :
    writeBuf a v s = .ok () t ↔ a < s.payLen.toNat ∧ t = s.setBuf a v := by
  unfold writeBuf
  split <;> simp_all [eq_comm]

theorem writeBuf_leaves {a : Nat} {v : Byte} {s t : State} (h : (writeBuf a v s).Leaves t) : t = s.setBuf a v := by
  unfold writeBuf at h
  split at h <;> simp_all [Result.leaves_ok, Result.leaves_stuck]

theorem readBuf32_eq_ok {a : Nat} {s t : State} {w : Word} :
    readBuf32 a s = .ok w t ↔ read32 s.bufAt a = some w ∧ t = s := by
  unfold readBuf32
  cases read32 s.bufAt a <;> simp [eq_comm]

theorem readBuf32_leaves {a : Nat} {s t : State} (h : (readBuf32 a s).Leaves t) : t = s := by
  unfold readBuf32 at h
  cases hb : read32 s.bufAt a <;> simp_all [Result.leaves_ok, Result.leaves_stuck]

theorem readHdr32_eq_ok {a : Nat} {s t : State} {w : Word} :
    readHdr32 a s = .ok w t ↔ read32 s.hdr.read a = some w ∧ t = s := by
  unfold readHdr32
  cases read32 s.hdr.read a <;> simp [eq_comm]

/-- A big-endian word is there when its four bytes are (R70). -/
theorem read32_eq_some {at' : Nat → Option Byte} {a : Nat} {w : Word} :
    read32 at' a = some w ↔
      ∃ b0 b1 b2 b3, at' a = some b0 ∧ at' (a + 1) = some b1 ∧ at' (a + 2) = some b2 ∧ at' (a + 3) = some b3 ∧
        w = word32 b0 b1 b2 b3 := by
  unfold read32
  cases at' a <;> cases at' (a + 1) <;> cases at' (a + 2) <;> cases at' (a + 3) <;> simp [eq_comm]

/-! ## The stream accesses -/

/-- `fetch_tab()` went on: the cursor was below its bound, and it alone has moved (R247). -/
theorem fetchTab_eq_ok {s t : State} {v : Byte} :
    fetchTab s = .ok v t ↔
      s.glz.tp < s.ct.tcount ∧ s.tab.read s.glz.tp.toNat = some v ∧ t = s.advanceTp 1 := by
  unfold fetchTab
  by_cases h : s.ct.tcount ≤ s.glz.tp
  · simp [h, BitVec.not_lt.mpr h]
  · rw [if_neg h]
    cases hr : s.tab.read s.glz.tp.toNat <;> simp [BitVec.not_le.mp h, eq_comm]

theorem fetchTab_eq_raised {s t : State} {k : ErrKind} :
    fetchTab s = .raised k t ↔ s.ct.tcount ≤ s.glz.tp ∧ k = .decodeOverflow ∧ t = s := by
  unfold fetchTab
  by_cases h : s.ct.tcount ≤ s.glz.tp
  · simp [h, eq_comm]
  · rw [if_neg h]
    cases hr : s.tab.read s.glz.tp.toNat <;> simp [h]

/-- `fetch_dict()` went on (R248). -/
theorem fetchDict_eq_ok {s t : State} {v : Byte} :
    fetchDict s = .ok v t ↔
      s.glz.dp < s.glz.ld ∧ s.bufAt s.dictAddr = some v ∧
        t = { s with glz := { s.glz with dp := s.glz.dp + 1 } } := by
  unfold fetchDict
  by_cases h : s.glz.ld ≤ s.glz.dp
  · simp [h, BitVec.not_lt.mpr h]
  · rw [if_neg h]
    simp only [Result.andThen_eq_ok, readBuf_eq_ok, BitVec.not_le.mp h, true_and]
    constructor
    · rintro ⟨a, u, ⟨ha, rfl⟩, hb⟩
      cases hb
      exact ⟨ha, rfl⟩
    · rintro ⟨ha, rfl⟩
      exact ⟨v, s, ⟨ha, rfl⟩, rfl⟩

theorem fetchDict_eq_raised {s t : State} {k : ErrKind} :
    fetchDict s = .raised k t ↔ s.glz.ld ≤ s.glz.dp ∧ k = .decodeOverflow ∧ t = s := by
  unfold fetchDict readBuf
  by_cases h : s.glz.ld ≤ s.glz.dp
  · simp [h, eq_comm]
  · cases hr : s.bufAt s.dictAddr <;> simp [h]

/-- `fetch_ovf()` went on (R249). -/
theorem fetchOvf_eq_ok {s t : State} {v : Byte} :
    fetchOvf s = .ok v t ↔
      s.glz.lp < s.glz.lo ∧ s.bufAt s.ovfAddr = some v ∧
        t = { s with glz := { s.glz with lp := s.glz.lp + 1 } } := by
  unfold fetchOvf
  by_cases h : s.glz.lo ≤ s.glz.lp
  · simp [h, BitVec.not_lt.mpr h]
  · rw [if_neg h]
    simp only [Result.andThen_eq_ok, readBuf_eq_ok, BitVec.not_le.mp h, true_and]
    constructor
    · rintro ⟨a, u, ⟨ha, rfl⟩, hb⟩
      cases hb
      exact ⟨ha, rfl⟩
    · rintro ⟨ha, rfl⟩
      exact ⟨v, s, ⟨ha, rfl⟩, rfl⟩

theorem fetchOvf_eq_raised {s t : State} {k : ErrKind} :
    fetchOvf s = .raised k t ↔ s.glz.lo ≤ s.glz.lp ∧ k = .decodeOverflow ∧ t = s := by
  unfold fetchOvf readBuf
  by_cases h : s.glz.lo ≤ s.glz.lp
  · simp [h, eq_comm]
  · cases hr : s.bufAt s.ovfAddr <;> simp [h]

/-- `put(b)` went on: there was room (R250). -/
theorem put_eq_ok {b : Byte} {s t : State} : put b s = .ok () t ↔ s.glz.wp < s.expected ∧ t = s.pushOut b := by
  unfold put
  by_cases h : s.expected ≤ s.glz.wp
  · simp [h, BitVec.not_lt.mpr h]
  · simp [h, BitVec.not_le.mp h, eq_comm]

theorem put_eq_raised {b : Byte} {s t : State} {k : ErrKind} :
    put b s = .raised k t ↔ s.expected ≤ s.glz.wp ∧ k = .decodeOverflow ∧ t = s := by
  unfold put
  by_cases h : s.expected ≤ s.glz.wp <;> simp [h, eq_comm]

/-- What a Glaze copy may change: `OUT`, in canonical form and with nothing lost, and the cursors `DP`, `LP`, `WP`
(R251, R252). -/
structure CopyFrame (s t : State) : Prop where
  same : t = { s with out := t.out, glz := { s.glz with dp := t.glz.dp, lp := t.glz.lp, wp := t.glz.wp } }
  wf : s.out.wf → t.out.wf
  covers : ∀ n, s.out.Covers n → t.out.Covers n

theorem CopyFrame.refl (s : State) : CopyFrame s s := ⟨rfl, id, fun _ h => h⟩

theorem CopyFrame.trans {s t u : State} (h : CopyFrame s t) (h' : CopyFrame t u) : CopyFrame s u where
  same := by
    have e := h'.same
    rw [h.same] at e
    rw [e]
  wf w := h'.wf (h.wf w)
  covers n w := h'.covers n (h.covers n w)

theorem fetchDict_leaves {s t : State} (h : (fetchDict s).Leaves t) : CopyFrame s t := by
  rcases h with ⟨v, h⟩ | ⟨k, h⟩
  · obtain ⟨_, _, rfl⟩ := fetchDict_eq_ok.mp h
    exact ⟨rfl, id, fun _ h => h⟩
  · obtain ⟨_, _, rfl⟩ := fetchDict_eq_raised.mp h
    exact CopyFrame.refl _

theorem fetchOvf_leaves {s t : State} (h : (fetchOvf s).Leaves t) : CopyFrame s t := by
  rcases h with ⟨v, h⟩ | ⟨k, h⟩
  · obtain ⟨_, _, rfl⟩ := fetchOvf_eq_ok.mp h
    exact ⟨rfl, id, fun _ h => h⟩
  · obtain ⟨_, _, rfl⟩ := fetchOvf_eq_raised.mp h
    exact CopyFrame.refl _

theorem put_leaves {b : Byte} {s t : State} (h : (put b s).Leaves t) : CopyFrame s t := by
  rcases h with ⟨v, h⟩ | ⟨k, h⟩
  · obtain ⟨_, rfl⟩ := put_eq_ok.mp h
    exact ⟨rfl, fun w => Memory.write_wf w _ _, fun _ w => w.write _ _⟩
  · obtain ⟨_, _, rfl⟩ := put_eq_raised.mp h
    exact CopyFrame.refl _

/-- Whatever a back-reference leaves, it has changed no more than a copy may. -/
theorem backref_leaves {dist len : Nat} {s t : State} (h : (backref dist len s).Leaves t) : CopyFrame s t := by
  induction len generalizing s t with
  | zero => exact Result.leaves_ok.mp h ▸ CopyFrame.refl s
  | succ len ih =>
    unfold backref at h
    split at h
    · exact Result.leaves_raised.mp h ▸ CopyFrame.refl s
    · split at h
      · exact absurd h Result.leaves_stuck
      · exact Result.andThen_keeps (R := CopyFrame) CopyFrame.trans (fun u hu => put_leaves hu) (fun _ _ _ _ h => ih h) h

/-- Whatever a literal run leaves, it has changed no more than a copy may. -/
theorem litrun_leaves {count : Nat} {s t : State} (h : (litrun count s).Leaves t) : CopyFrame s t := by
  induction count generalizing s t with
  | zero => exact Result.leaves_ok.mp h ▸ CopyFrame.refl s
  | succ count ih =>
    refine Result.andThen_keeps (R := CopyFrame) CopyFrame.trans (fun u hu => ?_) (fun _ _ _ _ h => ih h) h
    exact Result.andThen_keeps (R := CopyFrame) CopyFrame.trans (fun _ h => fetchDict_leaves h) (fun _ _ _ _ h => put_leaves h) hu

/-! ## The Bitstream Reader -/

theorem deliverBit_leaves {s t : State} (h : (deliverBit s).Leaves t) : t = { s with br := t.br } := by
  rw [deliverBit, Result.leaves_ok] at h
  subst h
  rfl

/-- `read_bit()` changes the reader's registers alone (R212). -/
theorem readBit_leaves {s t : State} (h : (readBit s).Leaves t) : t = { s with br := t.br } := by
  unfold readBit at h
  split at h
  · split at h
    · rw [Result.leaves_ok] at h
      subst h
      rfl
    · rcases Result.andThen_leaves h with h1 | ⟨v, u, hu, h2⟩
      · rw [readBuf_leaves h1]
      · obtain ⟨_, rfl⟩ := readBuf_eq_ok.mp hu
        have h3 := deliverBit_leaves h2
        exact h3
  · exact deliverBit_leaves h

/-- Reading bits changes the reader's registers alone (R213). -/
theorem takeBits_leaves {n : Nat} {s t : State} (h : (takeBits n s).Leaves t) : t = { s with br := t.br } := by
  induction n generalizing s t with
  | zero =>
    rw [takeBits, Result.leaves_ok] at h
    subst h
    rfl
  | succ n ih =>
    refine Result.andThen_keeps (R := fun s t => t = { s with br := t.br })
      (fun h h' => by rw [h] at h'; exact h') (fun _ h => readBit_leaves h) (fun b u v _ h => ?_) h
    cases b with
    | none =>
      rw [Result.leaves_ok] at h
      subst h
      rfl
    | some b =>
      refine Result.andThen_keeps (R := fun s t => t = { s with br := t.br })
        (fun h h' => by rw [h] at h'; exact h') (fun _ h => ih h) (fun _ _ _ _ h => ?_) h
      rw [Result.leaves_ok] at h
      subst h
      rfl

/-! ## The Permutation Engine -/

/-- What the Permutation Engine may change: `BUF`, in canonical form and with nothing lost, the PRNG, its own registers
and its two memories (spec/41_permutation.md R150, R171's list of the state written). -/
structure PermFrame (s t : State) : Prop where
  same : t = { s with buf := t.buf, prng := t.prng, pe := t.pe, ord := t.ord, pool := t.pool }
  wf : s.buf.wf → t.buf.wf
  covers : ∀ n, s.buf.Covers n → t.buf.Covers n

theorem PermFrame.refl (s : State) : PermFrame s s := ⟨rfl, id, fun _ h => h⟩

theorem PermFrame.trans {s t u : State} (h : PermFrame s t) (h' : PermFrame t u) : PermFrame s u where
  same := by
    have e := h'.same
    rw [h.same] at e
    rw [e]
  wf w := h'.wf (h.wf w)
  covers n w := h'.covers n (h.covers n w)

theorem PermFrame.setBuf (a : Nat) (v : Byte) (s : State) : PermFrame s (s.setBuf a v) :=
  ⟨rfl, fun w => Memory.write_wf w a v, fun _ w => w.write a v⟩

theorem readBuf_permFrame {a : Nat} {s t : State} (h : (readBuf a s).Leaves t) : PermFrame s t :=
  readBuf_leaves h ▸ PermFrame.refl s

theorem writeBuf_permFrame {a : Nat} {v : Byte} {s t : State} (h : (writeBuf a v s).Leaves t) : PermFrame s t :=
  writeBuf_leaves h ▸ PermFrame.setBuf a v s

theorem buildOrder_leaves {n : Nat} {s t : State} (h : (buildOrder n s).Leaves t) : PermFrame s t := by
  unfold buildOrder at h
  split at h
  · exact absurd h Result.leaves_stuck
  · rw [Result.leaves_ok] at h
    subst h
    exact ⟨rfl, id, fun _ h => h⟩

theorem swapBits_leaves {start rem e0 e1 : Nat} {s t : State} (h : (swapBits start rem e0 e1 s).Leaves t) :
    PermFrame s t := by
  unfold swapBits at h
  split at h
  · exact Result.leaves_raised.mp h ▸ PermFrame.refl s
  · refine Result.andThen_keeps (R := PermFrame) PermFrame.trans (fun _ h => readBuf_permFrame h) (fun _ _ _ _ h => ?_) h
    refine Result.andThen_keeps (R := PermFrame) PermFrame.trans (fun _ h => readBuf_permFrame h) (fun _ u _ _ h => ?_) h
    split at h
    · exact Result.leaves_ok.mp h ▸ PermFrame.refl u
    · refine Result.andThen_keeps (R := PermFrame) PermFrame.trans (fun _ h => writeBuf_permFrame h) (fun _ _ _ _ h => ?_) h
      exact Result.andThen_keeps (R := PermFrame) PermFrame.trans (fun _ h => readBuf_permFrame h)
        (fun _ _ _ _ h => writeBuf_permFrame h) h

theorem walkFrom_leaves {start rem pairs i : Nat} {s t : State} (h : (walkFrom start rem pairs i s).Leaves t) :
    PermFrame s t := by
  induction pairs generalizing i s t with
  | zero =>
    rw [walkFrom, Result.leaves_ok] at h
    subst h
    exact ⟨rfl, id, fun _ h => h⟩
  | succ pairs ih =>
    unfold walkFrom at h
    split at h
    · refine Result.andThen_keeps (R := PermFrame) PermFrame.trans (fun u hu => ?_) (fun _ _ _ _ h => ih h) h
      refine PermFrame.trans ?_ (swapBits_leaves hu)
      exact ⟨rfl, id, fun _ h => h⟩
    · exact absurd h Result.leaves_stuck

theorem permuteSlice_leaves {base total slice pos : Nat} {s t : State}
    (h : (permuteSlice base total slice pos s).Leaves t) : PermFrame s t := by
  refine Result.andThen_keeps (R := PermFrame) PermFrame.trans (fun u hu => ?_) (fun _ u v _ h => ?_) h
  · refine PermFrame.trans ?_ (buildOrder_leaves hu)
    exact ⟨rfl, id, fun _ h => h⟩
  · refine PermFrame.trans ?_ (walkFrom_leaves h)
    exact ⟨rfl, id, fun _ h => h⟩

theorem sliceLoop_leaves {base total slice fuel pos : Nat} {s t : State}
    (h : (sliceLoop base total slice fuel pos s).Leaves t) : PermFrame s t := by
  induction fuel generalizing pos s t with
  | zero => exact Result.leaves_ok.mp h ▸ PermFrame.refl s
  | succ fuel ih =>
    unfold sliceLoop at h
    split at h
    · rw [Result.leaves_ok] at h
      subst h
      exact ⟨rfl, id, fun _ h => h⟩
    · exact Result.andThen_keeps (R := PermFrame) PermFrame.trans (fun _ h => permuteSlice_leaves h) (fun _ _ _ _ h => ih h) h

/-- Whatever `permute_chunks` leaves, it has changed no more than the engine may. -/
theorem permuteChunks_leaves {base total slice : Nat} {m a : Word} {s t : State}
    (h : (permuteChunks base total slice m a s).Leaves t) : PermFrame s t := by
  unfold permuteChunks at h
  simp only at h
  split at h
  · rw [Result.leaves_raised] at h
    subst h
    exact ⟨rfl, id, fun _ h => h⟩
  · split at h
    · rw [Result.leaves_raised] at h
      subst h
      exact ⟨rfl, id, fun _ h => h⟩
    · refine PermFrame.trans ?_ (sliceLoop_leaves h)
      exact ⟨rfl, id, fun _ h => h⟩

/-- The participating count never exceeds the order array, under either reading of `PARTIAL_LIMIT` (R156). -/
theorem participating_le (reading : PartialLimit) (slice rem : Nat) : participating reading slice rem ≤ slice * 8 := by
  unfold participating partialLimit
  cases reading <;> simp only <;> split <;> omega

/-- All entries of a full slice take part (R156). -/
@[simp] theorem participating_full {reading : PartialLimit} {slice rem : Nat} (h : slice ≤ rem) :
    participating reading slice rem = slice * 8 := if_pos h

/-! ## The loops of Stage-1 and Stage-2 -/

/-- The index cycles through `TABLE_RING` (R186). -/
@[simp] theorem nextIdx_val (idx : Fin Params.tableRing) : (nextIdx idx).val = (idx.val + 1) % Params.tableRing := by
  revert idx
  decide

@[simp] theorem Triple.get_set_self (t : Triple) (i : Fin Params.tableRing) (v : Word) : (t.set i v).get i = v := by
  match i with
  | 0 => rfl
  | 1 => rfl
  | 2 => rfl

theorem Triple.get_set_of_ne (t : Triple) {i j : Fin Params.tableRing} (v : Word) (h : j ≠ i) :
    (t.set i v).get j = t.get j := by
  match i, j with
  | 0, 0 => exact absurd rfl h
  | 0, 1 => rfl
  | 0, 2 => rfl
  | 1, 0 => rfl
  | 1, 1 => exact absurd rfl h
  | 1, 2 => rfl
  | 2, 0 => rfl
  | 2, 1 => rfl
  | 2, 2 => exact absurd rfl h

/-- What Pass B may change: `BUF` and the PRNG (spec/42_stage1.md R172). -/
structure WordFrame (s t : State) : Prop where
  same : t = { s with buf := t.buf, prng := t.prng }
  wf : s.buf.wf → t.buf.wf
  covers : ∀ n, s.buf.Covers n → t.buf.Covers n

theorem WordFrame.refl (s : State) : WordFrame s s := ⟨rfl, id, fun _ h => h⟩

theorem WordFrame.trans {s t u : State} (h : WordFrame s t) (h' : WordFrame t u) : WordFrame s u where
  same := by
    have e := h'.same
    rw [h.same] at e
    rw [e]
  wf w := h'.wf (h.wf w)
  covers n w := h'.covers n (h.covers n w)

theorem WordFrame.setPrng (p : Prng) (s : State) : WordFrame s (s.setPrng p) := ⟨rfl, id, fun _ h => h⟩

theorem WordFrame.setBuf (a : Nat) (v : Byte) (s : State) : WordFrame s (s.setBuf a v) :=
  ⟨rfl, fun w => Memory.write_wf w a v, fun _ w => w.write a v⟩

theorem writeBuf_wordFrame {a : Nat} {v : Byte} {s t : State} (h : (writeBuf a v s).Leaves t) : WordFrame s t :=
  writeBuf_leaves h ▸ WordFrame.setBuf a v s

theorem passBWord_leaves {k : Nat} {s t : State} (h : (passBWord k s).Leaves t) : WordFrame s t := by
  refine Result.andThen_keeps (R := WordFrame) WordFrame.trans (fun _ h => readBuf_leaves h ▸ WordFrame.refl s) (fun _ u _ _ h => ?_) h
  refine Result.andThen_keeps (R := WordFrame) WordFrame.trans (fun _ h => readBuf_leaves h ▸ WordFrame.refl u) (fun _ u _ _ h => ?_) h
  refine Result.andThen_keeps (R := WordFrame) WordFrame.trans (fun v hv => ?_) (fun _ _ _ _ h => writeBuf_wordFrame h) h
  exact WordFrame.trans (WordFrame.setPrng u.prng.draw15.2 u) (writeBuf_wordFrame hv)

theorem passBFrom_leaves {words k : Nat} {s t : State} (h : (passBFrom words k s).Leaves t) : WordFrame s t := by
  induction words generalizing k s t with
  | zero => exact Result.leaves_ok.mp h ▸ WordFrame.refl s
  | succ words ih =>
    exact Result.andThen_keeps (R := WordFrame) WordFrame.trans (fun _ h => passBWord_leaves h) (fun _ _ _ _ h => ih h) h

theorem scanBelow_leaves {i : Nat} {s t : State} (h : (scanBelow i s).Leaves t) : t = s := by
  induction i generalizing s t with
  | zero => exact Result.leaves_raised.mp h
  | succ i ih =>
    refine Result.andThen_keeps (R := fun s t => t = s) (fun h h' => h'.trans h) (fun _ h => readBuf_leaves h)
      (fun _ u _ _ h => ?_) h
    split at h
    · exact Result.leaves_ok.mp h
    · exact ih h

/-- What step 3 of Stage-2 may change: `BUF`, the PRNG, `TABLE`, `IDX`, `FUDGE`, `COUNT`
(spec/43_stage2.md R185, R186). -/
structure XorFrame (s t : State) : Prop where
  same : t =
    { s with
      buf := t.buf, prng := t.prng, seeds := { s.seeds with table := t.seeds.table }
      s2 := { s.s2 with idx := t.s2.idx, fudge := t.s2.fudge, count := t.s2.count } }
  wf : s.buf.wf → t.buf.wf
  covers : ∀ n, s.buf.Covers n → t.buf.Covers n

theorem XorFrame.refl (s : State) : XorFrame s s := ⟨rfl, id, fun _ h => h⟩

theorem XorFrame.trans {s t u : State} (h : XorFrame s t) (h' : XorFrame t u) : XorFrame s u where
  same := by
    have e := h'.same
    rw [h.same] at e
    rw [e]
  wf w := h'.wf (h.wf w)
  covers n w := h'.covers n (h.covers n w)

theorem XorFrame.setPrng (p : Prng) (s : State) : XorFrame s (s.setPrng p) := ⟨rfl, id, fun _ h => h⟩

theorem XorFrame.setBuf (a : Nat) (v : Byte) (s : State) : XorFrame s (s.setBuf a v) :=
  ⟨rfl, fun w => Memory.write_wf w a v, fun _ w => w.write a v⟩

theorem rotateIfDue_xorFrame (s : State) : XorFrame s (rotateIfDue s) := by
  unfold rotateIfDue
  split
  · exact ⟨rfl, id, fun _ h => h⟩
  · exact XorFrame.refl s

theorem xorByte_leaves {i : Nat} {s t : State} (h : (xorByte i s).Leaves t) : XorFrame s t := by
  refine Result.andThen_keeps (R := XorFrame) XorFrame.trans (fun _ h => readBuf_leaves h ▸ XorFrame.refl s) (fun b u _ _ h => ?_) h
  refine Result.andThen_keeps (R := XorFrame) XorFrame.trans (fun v hv => ?_) (fun _ u v _ h => ?_) h
  · rw [writeBuf_leaves hv]
    exact XorFrame.trans (XorFrame.setPrng u.prng.draw8.2 u) (XorFrame.setBuf _ _ _)
  · rw [Result.leaves_ok] at h
    subst h
    refine XorFrame.trans ?_ (rotateIfDue_xorFrame _)
    exact ⟨rfl, id, fun _ h => h⟩

theorem xorFrom_leaves {bytes i : Nat} {s t : State} (h : (xorFrom bytes i s).Leaves t) : XorFrame s t := by
  induction bytes generalizing i s t with
  | zero => exact Result.leaves_ok.mp h ▸ XorFrame.refl s
  | succ bytes ih =>
    exact Result.andThen_keeps (R := XorFrame) XorFrame.trans (fun _ h => xorByte_leaves h) (fun _ _ _ _ h => ih h) h

/-- The folds change `CX` and `CS` alone (R192). -/
theorem foldFrom_leaves {words j : Nat} {s t : State} (h : (foldFrom words j s).Leaves t) :
    t = { s with s2 := { s.s2 with cx := t.s2.cx, cs := t.s2.cs } } := by
  induction words generalizing j s t with
  | zero =>
    rw [foldFrom, Result.leaves_ok] at h
    subst h
    rfl
  | succ words ih =>
    rcases Result.andThen_leaves h with h1 | ⟨w, u, hu, h2⟩
    · rw [readBuf32_leaves h1]
    · obtain ⟨_, rfl⟩ := readBuf32_eq_ok.mp hu
      have h3 := ih h2
      exact h3

end Sys2Proof.Machine
end

