-- ==== Sys2Proof/Laws/PerInstr.lean ====
section
/-! SUPPORT. The families of statements that hold for every instruction, one lemma per constructor of Instr. -/

namespace Sys2Proof.Laws

/-- The pattern of a codeword of class `k` has `2k + 1` bits (spec/30_encoding.md R110). -/
theorem bitsOf_length (k v : Nat) : (bitsOf k v).length = k := by
  induction k with
  | zero => rfl
  | succ k ih => simp [bitsOf, ih]

theorem codeword_length (k p : Nat) : (codeword k p).length = 2 * k + 1 := by
  simp [codeword, bitsOf_length]
  omega

/-- The encoding of an instruction has the size the spec gives it (R112, R125, R110). -/
def EncodedSize.Statement (i : Instr) : Prop := (encode i).size = i.size

theorem EncodedSize.lit : EncodedSize.Statement .lit := rfl

theorem EncodedSize.rep (d : Byte) : EncodedSize.Statement (.rep d) := rfl

theorem EncodedSize.cpy (d0 l0 : Byte) : EncodedSize.Statement (.cpy d0 l0) := rfl

theorem EncodedSize.cpyd (l0 : Byte) : EncodedSize.Statement (.cpyd l0) := rfl

theorem EncodedSize.cpyw (dHi l0 : Byte) : EncodedSize.Statement (.cpyw dHi l0) := rfl

theorem EncodedSize.run (l0 : Byte) : EncodedSize.Statement (.run l0) := rfl

theorem EncodedSize.runx : EncodedSize.Statement .runx := rfl

theorem EncodedSize.pfx0 : EncodedSize.Statement .pfx0 := rfl

theorem EncodedSize.pfx1 (p : BitVec 1) : EncodedSize.Statement (.pfx1 p) := codeword_length 1 p.toNat

theorem EncodedSize.pfx2 (p : BitVec 2) : EncodedSize.Statement (.pfx2 p) := codeword_length 2 p.toNat

theorem EncodedSize.pfx3 (p : BitVec 3) : EncodedSize.Statement (.pfx3 p) := codeword_length 3 p.toNat

theorem EncodedSize.pfx4 (p : BitVec 4) : EncodedSize.Statement (.pfx4 p) := codeword_length 4 p.toNat

theorem EncodedSize.pfx5 (p : BitVec 5) : EncodedSize.Statement (.pfx5 p) := codeword_length 5 p.toNat

theorem EncodedSize.pfx6 (p : BitVec 6) : EncodedSize.Statement (.pfx6 p) := codeword_length 6 p.toNat

theorem EncodedSize.pfxz : EncodedSize.Statement .pfxz := rfl

end Sys2Proof.Laws
end

