-- ==== Sys2Proof/Tests/Slice0.lean ====
section
/-! SUPPORT. Tests: the smoke test of WellFormed, words written out from the spec's encodings, the spec's own vectors
(spec/95_test_vectors.md and the worked examples of the rules), and a witness for every statement with hypotheses. -/

namespace Sys2Proof.Tests

open Sys2Proof Sys2Proof.Machine

/-! ## Well-formedness: each check refuses an ill-formed term (R113) -/

theorem test_wf_refuses_rep : (Instr.rep 128).wf = false := by decide

theorem test_wf_refuses_cpy : (Instr.cpy 128 0).wf = false ∧ (Instr.cpy 0 128).wf = false := by decide

theorem test_wf_refuses_cpyd : (Instr.cpyd 128).wf = false := by decide

theorem test_wf_refuses_cpyw : (Instr.cpyw 128 0).wf = false ∧ (Instr.cpyw 0 128).wf = false := by decide

theorem test_wf_refuses_run : (Instr.run 128).wf = false := by decide

theorem test_wf_accepts : (Instr.cpyw 127 127).wf = true ∧ (Instr.rep 127).wf = true ∧ Instr.pfxz.wf = true := by
  decide

/-! ## Words written out from R112 and R110 -/

theorem test_decode_lit : decodeTab [0x01] = .ok (.lit, []) := by rfl

theorem test_decode_rep : decodeTab [0x02, 0x7F, 0x01] = .ok (.rep 0x7F, [0x01]) := by rfl

theorem test_decode_cpy : decodeTab [0x03, 0x01, 0x02] = .ok (.cpy 1 2, []) := by rfl

theorem test_decode_cpyd : decodeTab [0x04, 0x05] = .ok (.cpyd 5, []) := by rfl

theorem test_decode_cpyw : decodeTab [0x05, 0x01, 0x02] = .ok (.cpyw 1 2, []) := by rfl

theorem test_decode_run : decodeTab [0x06, 0x09] = .ok (.run 9, []) := by rfl

theorem test_decode_runx : decodeTab [0x07, 0x09] = .ok (.runx, [0x09]) := by rfl

theorem test_decode_illegal_zero : decodeTab [0x00] = .error (.illegalOpcode 0) := by rfl

theorem test_decode_illegal_eight : decodeTab [0x08, 0x01] = .error (.illegalOpcode 8) := by rfl

theorem test_decode_table_ends : decodeTab [0x05, 0x01] = .error .tableEnds := by rfl

/-- A bit string from its digits. -/
def bits (l : List Nat) : List Bool := l.map (fun d => d == 1)

theorem test_decode_pfx0 : decodeBits (bits [1]) = .ok (.pfx0, []) := by rfl

theorem test_decode_pfx1 : decodeBits (bits [0, 1, 1]) = .ok (.pfx1 1, []) := by rfl

theorem test_decode_pfx2 : decodeBits (bits [0, 0, 1, 1, 0]) = .ok (.pfx2 2, []) := by rfl

theorem test_decode_pfx3 : decodeBits (bits [0, 0, 0, 1, 0, 0, 1]) = .ok (.pfx3 1, []) := by rfl

theorem test_decode_pfx4 : decodeBits (bits [0, 0, 0, 0, 1, 1, 0, 1, 0]) = .ok (.pfx4 10, []) := by rfl

theorem test_decode_pfx5 : decodeBits (bits [0, 0, 0, 0, 0, 1, 1, 0, 0, 0, 1]) = .ok (.pfx5 17, []) := by rfl

/-- R236's example: `0000001100100` is 100. -/
theorem test_decode_pfx6 :
    decodeBits (bits [0, 0, 0, 0, 0, 0, 1, 1, 0, 0, 1, 0, 0]) = .ok (.pfx6 36, []) ∧
      entryValue (.pfx6 36) = some 100 := by
  decide +kernel

/-- R223: the eighth bit belongs to the next entry. -/
theorem test_decode_pfxz : decodeBits (bits [0, 0, 0, 0, 0, 0, 0, 1]) = .ok (.pfxz, [true]) := by rfl

theorem test_decode_bits_end : decodeBits (bits [0, 0, 0, 0, 0, 0, 1, 1]) = .error .bitsEnd := by rfl

theorem test_encode_pfx4 : encode (.pfx4 10) = .bits (bits [0, 0, 0, 0, 1, 1, 0, 1, 0]) := by decide +kernel

/-- Words as spec/opcode_table.json numbers them (log 13). -/
theorem test_decodeTableWord :
    decodeTableWord 8 0x05 = some (.cpyw 0 0) ∧ decodeTableWord 8 0x80 = some .pfx0 ∧
      decodeTableWord 16 0x0002 = some (.pfx6 0) ∧ decodeTableWord 8 0x00 = some .pfxz := by
  decide +kernel

/-! ## Small states -/

/-- The state an outcome goes on to. -/
def after : Host.Outcome State Fault Refusal → Option State
  | .next s => some s
  | .fault _ => none
  | .refused _ => none

/-- A decode in a phase, with a payload. -/
def inPhase (ph : Phase) (payload : List Byte) : State :=
  { State.reset with
    status := .busy, phase := ph, payLen := BitVec.ofNat 32 payload.length, buf := Memory.ofBytes 0 payload
    nIn := BitVec.ofNat 32 (payload.length + 16), hdr := Memory.ofBytes 0 (List.replicate 16 0)
    seeds := { State.reset.seeds with fence := 1, length := { e0 := 1, e1 := 1, e2 := 1 } } }

/-- The Glaze loop with a table, the two streams, what is written of `OUT`, and the declared size. -/
def glaze (tab dict ovf out : List Byte) (size : Word) : State :=
  let s := inPhase .glzRun (dict ++ ovf)
  { s with
    expected := size
    tab := Memory.ofBytes 0 tab
    ct := { s.ct with tlen := BitVec.ofNat 32 tab.length, tcount := BitVec.ofNat 32 tab.length }
    out := Memory.ofBytes 0 out
    glz :=
      { s.glz with
        ld := BitVec.ofNat 32 dict.length, lo := BitVec.ofNat 32 ovf.length
        ovfBase := BitVec.ofNat 32 dict.length, wp := BitVec.ofNat 32 out.length } }

/-- The table builder at the start of a packed region, `n` entries wanted. -/
def building (region : List Byte) (n : Word) : State :=
  let s := inPhase .glzTab region
  { s with br := { s.br with len := BitVec.ofNat 32 region.length }, ct := { s.ct with tlen := n } }

/-- The written bytes of `OUT`, the cursors and the error code after a step. -/
def seen (s : State) : Option (List Nat × List Nat × Nat) :=
  (after (step s)).map fun t =>
    (t.out.map (fun c => c.2.toNat), [t.glz.tp.toNat, t.glz.dp.toNat, t.glz.lp.toNat, t.glz.wp.toNat], t.err.toNat)

/-! ## Vectors of the spec -/

/-- R141: the first three values from `A = 0`. -/
theorem test_prng :
    (Prng.seed 0x3B9A73C9 0).next.a = 0x00002F09 ∧ (Prng.seed 0x3B9A73C9 0).next.next.a = 0x73B0281A ∧
      (Prng.seed 0x3B9A73C9 0).next.next.next.a = 0x14F75973 := by
  decide +kernel

/-- R142's example. -/
theorem test_draws :
    (Prng.seed 0x3B9A73C9 0x2F09).draw15.1 = 0x73B0 ∧ (Prng.seed 0x3B9A73C9 0x2F09).draw8.1 = 0xB0 := by
  decide +kernel

/-- A state whose whole `BUF` is a region of one slice of one byte (R162). -/
def oneByte : State := inPhase .s1a [0xF0]

/-- R162: the region `F0` becomes `36`, `A` ends at `513747A0`. -/
theorem test_permute :
    (match permuteChunks 0 1 1 0x3B9A73C9 0x12345678 oneByte with
      | .ok _ t => (t.bufAt 0, t.ord, t.prng.a)
      | .raised _ _ => (none, [], 0)
      | .stuck _ => (none, [], 0)) = (some 0x36, [7, 2, 5, 4, 0, 3, 6, 1], 0x513747A0) := by
  decide +kernel

/-- R173's example: four words with `FENCE = 0x64`. -/
theorem test_word_transform :
    wordTransform 0x7A1F 0x64 0x0000 = 0x0000 ∧ wordTransform 0x6114 0x64 0xFFFF = 0x3DD7 ∧
      wordTransform 0x418C 0x64 0x1234 = 0x122C ∧ wordTransform 0x768C 0x64 0x8000 = 0x0974 := by
  decide +kernel

/-- The seeds of R187's example and its fourteen bytes. -/
def rotating : State :=
  let s := inPhase .s2Xor (List.replicate 28 0)
  { s with
    s2 := { s.s2 with aux := 0x10, marker := 14 }
    seeds :=
      { s.seeds with
        table := { e0 := 0x11111111, e1 := 0x22222222, e2 := 0x33333333 }, length := { e0 := 1, e1 := 2, e2 := 3 } } }

/-- R187: the key bytes (the decoded bytes are 0), the stashed table and the counters. -/
theorem test_rotation :
    (after (step rotating)).map (fun t => (t.buf.bytes 0 14, t.seeds.table, t.s2.idx, t.s2.fudge, t.s2.count)) =
      some
        (some [0x5C, 0xB8, 0xE6, 0x14, 0xFF, 0x51, 0xCC, 0x36, 0x44, 0x02, 0x16, 0x88, 0x68, 0x26],
          { e0 := 0x283646FC, e1 := 0x8F166A2F, e2 := 0x6251EAAE }, 2, 1, 3) := by
  decide +kernel

/-- R192's example of three words. -/
theorem test_checksum_forms :
    closedCx [0x00000001, 0xFFFFFFFF, 0x12345678] = 0x12345679 ∧
      closedCs [0x00000001, 0xFFFFFFFF, 0x12345678] = 0xEDCBA988 := by
  decide +kernel

/-- R216: `A5 C3` read in pieces of 1, 2 and 3 bits; nine bits of `FF` are the end of the stream. -/
theorem test_read_bits :
    (match readBits 1 (building [0xA5, 0xC3] 1) with
      | .ok v t =>
        (match readBits 2 t with
          | .ok w u => (v, w, (match readBits 3 u with | .ok x _ => x | .raised _ _ => none | .stuck _ => none))
          | .raised _ _ => (none, none, none)
          | .stuck _ => (none, none, none))
      | .raised _ _ => (none, none, none)
      | .stuck _ => (none, none, none)) = (some 1, some 1, some 1) ∧
    (match readBits 9 (building [0xFF] 1) with
      | .ok v t => (v, t.br.cur, t.br.mask)
      | .raised _ _ => (some 0, 0, 0)
      | .stuck _ => (some 0, 0, 0)) = (none, 1, 0) := by
  decide +kernel

/-- What a step of the table builder leaves: the entries, `TCOUNT`, `CODE_LEN` and the reader's cursor and mask. -/
def built (s : State) : Option (List Nat × Nat × Nat × Nat × Nat) :=
  (after (step s)).map fun t =>
    (t.tab.map (fun c => c.2.toNat), t.ct.tcount.toNat, t.ct.codeLen.toNat, t.br.cur.toNat, t.br.mask.toNat)

theorem test_pfx0 : built (building [0x80] 1) = some ([1], 1, 0, 1, 0x40) := by decide +kernel

theorem test_pfx1 : built (building [0x60] 1) = some ([3], 1, 1, 1, 0x10) := by decide +kernel

theorem test_pfx2 : built (building [0x38] 1) = some ([7], 1, 2, 1, 0x04) := by decide +kernel

theorem test_pfx3 : built (building [0x12] 1) = some ([9], 1, 3, 1, 0x01) := by decide +kernel

theorem test_pfx4 : built (building [0x0F, 0x80] 1) = some ([31], 1, 4, 2, 0x40) := by decide +kernel

theorem test_pfx5 : built (building [0x06, 0x20] 1) = some ([49], 1, 5, 2, 0x10) := by decide +kernel

theorem test_pfx6 : built (building [0x02, 0x00] 1) = some ([64], 1, 6, 2, 0x04) := by decide +kernel

theorem test_pfxz : built (building [0x01] 1) = some ([0], 1, 7, 1, 0x01) := by decide +kernel

/-- R238: `03` ends inside the payload: no entry, and the loop begins. -/
theorem test_short_table :
    (after (step (building [0x03] 1))).map (fun t => (t.tab, t.ct.tcount, t.phase)) =
      some ([], 0, .glzRun) := by
  decide +kernel

/-- R261's example, its second literal. -/
theorem test_lit :
    seen { glaze [1, 1] [0xAA, 0xBB] [] [0xAA] 2 with
      glz := { (glaze [1, 1] [0xAA, 0xBB] [] [0xAA] 2).glz with tp := 1, dp := 1 } } =
      some ([0xAA, 0xBB], [2, 2, 0, 2], 0) := by
  decide +kernel

theorem test_lit_exhausted : seen (glaze [1] [] [] [] 1) = some ([], [1, 0, 0, 0], 7) := by decide +kernel

/-- R262: `d = 1` repeats the last byte. -/
theorem test_rep : seen (glaze [2, 1] [] [] [0x11, 0xAA] 3) = some ([0x11, 0xAA, 0xAA], [2, 0, 0, 3], 0) := by
  decide +kernel

theorem test_rep_zero : seen (glaze [2, 0] [] [] [0xAA] 2) = some ([0xAA], [2, 0, 0, 1], 7) := by decide +kernel

/-- R263: after `abcd`, `CPY 1, 2` appends `abc`. -/
theorem test_cpy :
    seen (glaze [3, 1, 2] [] [] [0x61, 0x62, 0x63, 0x64] 7) =
      some ([0x61, 0x62, 0x63, 0x64, 0x61, 0x62, 0x63], [3, 0, 0, 7], 0) := by
  decide +kernel

theorem test_cpy_full :
    seen (glaze [3, 0, 1] [] [] [0x61, 0x62] 3) = some ([0x61, 0x62, 0x61], [3, 0, 0, 3], 7) := by
  decide +kernel

/-- R264: after `abc`, `CPYD 0` with `d0 = 2` appends `a`. -/
theorem test_cpyd :
    seen (glaze [4, 0] [2] [] [0x61, 0x62, 0x63] 4) = some ([0x61, 0x62, 0x63, 0x61], [2, 1, 0, 4], 0) := by
  decide +kernel

/-- R265: after `ab`, `CPYW 0, 2` appends `aba`, the third byte being one this copy wrote. -/
theorem test_cpyw :
    seen (glaze [5, 0, 2] [0] [] [0x61, 0x62] 5) = some ([0x61, 0x62, 0x61, 0x62, 0x61], [3, 1, 0, 5], 0) := by
  decide +kernel

/-- R265: with `dHi = dLo = l0 = 0` the distance is 0, a fault. -/
theorem test_cpyw_zero : seen (glaze [5, 0, 0] [0] [] [0x61] 2) = some ([0x61], [3, 1, 0, 1], 7) := by
  decide +kernel

/-- R266's example. -/
theorem test_run :
    seen (glaze [6, 0] [0x30, 0x31, 0x32, 0x33, 0x34, 0x35, 0x36, 0x37] [] [] 8) =
      some ([0x30, 0x31, 0x32, 0x33, 0x34, 0x35, 0x36, 0x37], [2, 8, 0, 8], 0) := by
  decide +kernel

/-- R267's example: sixteen bytes, `TP = 1, DP = 16, LP = 1`. -/
theorem test_runx :
    (seen (glaze [7] (List.replicate 16 0x55) [2] [] 16)) =
      some (List.replicate 16 0x55, [1, 16, 1, 16], 0) := by
  decide +kernel

theorem test_illegal : seen (glaze [8] [] [] [] 1) = some ([], [1, 0, 0, 0], 9) := by decide +kernel

/-- A table that ends inside an instruction's operands (R247). -/
theorem test_operands_exhausted : seen (glaze [3, 1] [] [] [0x61] 2) = some ([0x61], [2, 0, 0, 1], 7) := by
  decide +kernel

/-- A word of the opcode table is fetched and run right after reset (log 13). -/
theorem test_withFetchWord :
    (after (step (State.reset.withFetchWord 16 0x0002))).map (fun t => (t.tab, t.ct.tcount)) =
        some ([(0, 64)], 1) ∧
      (after (step (State.reset.withFetchWord 8 0x02))).map (fun t => (t.err, t.glz.tp)) = some (7, 2) := by
  decide +kernel

/-! ## Witnesses: each statement's hypotheses are met together -/

theorem witness_PermuteChecksItsSliceFirst :
    (0 : Nat) * 8 < 4 ∧ ({ oneByte with cfg := { oneByte.cfg with capOrder := 2048 } } : State).cfg.capOrder < 257 * 8 ∧
      (256 : Nat) * 8 ≤ ({ oneByte with cfg := { oneByte.cfg with capOrder := 2048 } } : State).cfg.capOrder := by
  decide

theorem witness_PermuteTouchesOnlyItsRegion :
    (∃ t, (permuteChunks 0 1 1 0x3B9A73C9 0x12345678 oneByte).Leaves t) ∧
      ∃ t, (permuteChunks 1 1 1 0x3B9A73C9 0x12345678 (inPhase .s1a [0xF0, 0x0F, 0xAA])).Leaves t :=
  ⟨⟨_, .inl ⟨(), rfl⟩⟩, ⟨_, .inl ⟨(), rfl⟩⟩⟩

theorem witness_SwapExchangesTwoBits :
    ((7 : Nat) ≠ 0 ∧ (7 : Nat) / 8 < 1 ∧ (0 : Nat) / 8 < 1 ∧ (oneByte.bufAt (0 + 7 / 8)).isSome = true) ∧
      (1 : Nat) ≤ 8 / 8 := by
  decide

theorem witness_WholeSlicesNeverFault :
    (1 : Nat) * 8 ≤ oneByte.cfg.capOrder ∧ (1 : Nat) % 1 = 0 ∧ ∀ j, j < 1 → (oneByte.bufAt (0 + j)).isSome = true := by
  decide

/-- The order entries that a partial slice of one byte, of slices of two, uses with a seed; none if there is no order. -/
def firstPair (a : Word) : List Nat :=
  match buildOrder 16 (oneByte.setPrng (Prng.seed 0x3B9A73C9 a)) with
  | .ok _ u => u.ord.take 2
  | .raised _ _ => []
  | .stuck _ => []

/-- A partial slice whose pair is inside the region, and one with an entry beyond it. -/
theorem witness_partialSlice :
    (∃ u, buildOrder 16 (oneByte.setPrng (Prng.seed 0x3B9A73C9 0)) = .ok () u) ∧ (1 : Nat) < 2 ∧
      oneByte.cfg.partialLimit = .literal ∧ min 2 (1 * 8) = 2 ∧ (firstPair 0).all (fun e => e / 8 < 1) = true ∧
      (firstPair 0).length = 2 ∧ (firstPair 1).any (fun e => 1 ≤ e / 8) = true :=
  ⟨⟨_, rfl⟩, by decide, rfl, rfl, by decide +kernel, by decide +kernel, by decide +kernel⟩

theorem witness_PermuteIsItsOwnInverse :
    oneByte.buf.wf ∧ ∃ t, permuteChunks 0 1 1 0x3B9A73C9 0x12345678 oneByte = .ok () t :=
  ⟨by decide, ⟨_, rfl⟩⟩

/-- A payload of one slice of Pass A, in Pass A and in step 5 of Stage-2 with two slices. -/
def oneSlice (ph : Phase) : State :=
  let s := inPhase ph (List.replicate 256 0x5A)
  { s with s2 := { s.s2 with tLen := 256 } }

theorem witness_PermutationPhases :
    ((oneSlice .s1a).status = .busy ∧ (oneSlice .s1a).cfg.admissible ∧ (oneSlice .s1a).phase = .s1a ∧
      (oneSlice .s1a).payLen.toNat % 0x100 = 0 ∧
      ∀ j, j < (oneSlice .s1a).payLen.toNat → ((oneSlice .s1a).bufAt j).isSome = true) ∧
    ((oneSlice .s2Perm).status = .busy ∧ (oneSlice .s2Perm).phase = .s2Perm ∧
      (oneSlice .s2Perm).s2.tLen.toNat % 0x80 = 0 ∧
      ∀ j, j < (oneSlice .s2Perm).s2.tLen.toNat → ((oneSlice .s2Perm).bufAt j).isSome = true) := by
  decide +kernel

theorem witness_WordTransformCorners :
    (0x7FFF : Word).toNat < 2 ^ 15 ∧ 0x10000 ≤ (0x10000 : Word).toNat ∧ (3 : Word) ≠ 0 := by
  decide

/-- R173 with an odd fence: the half of 3 is 1, so a draw of 1 or 2 mod 3 XORs and one of 0 does not. -/
theorem test_odd_fence :
    wordTransform 4 3 0x0010 = 0x0010 ∧ wordTransform 5 3 0x0010 = 0x0010 ∧ wordTransform 6 3 0x0010 = 0x000A := by
  decide +kernel

/-- A payload of an odd length in Pass B. -/
def threeBytes : State := inPhase .s1b [0x12, 0x34, 0x56]

theorem witness_PassBTransformsEveryWord :
    threeBytes.status = .busy ∧ threeBytes.phase = .s1b ∧
      (∀ j, j < threeBytes.payLen.toNat → (threeBytes.bufAt j).isSome = true) ∧
      0 < threeBytes.payLen.toNat / 2 ∧ threeBytes.bufAt 0 = some 0x12 ∧ threeBytes.bufAt 1 = some 0x34 ∧
      2 * (threeBytes.payLen.toNat / 2) ≤ 2 := by
  decide

theorem witness_Stage2SizeIsChecked :
    ((inPhase .s2Tail (List.replicate 18 0)).payLen.toNat % 4 ≠ 0) ∧
      (inPhase .s2Tail (List.replicate 12 0)).payLen.toNat < 16 ∧
      (inPhase .s2Tail []).status = .busy ∧ (inPhase .s2Tail []).phase = .s2Tail := by
  decide

theorem witness_TailWordsAreRead :
    (inPhase .s2Tail (List.replicate 16 7)).payLen.toNat % 4 = 0 ∧
      16 ≤ (inPhase .s2Tail (List.replicate 16 7)).payLen.toNat ∧
      read32 (inPhase .s2Tail (List.replicate 16 7)).bufAt 12 = some 0x07070707 ∧
      read32 (inPhase .s2Tail (List.replicate 16 7)).bufAt 8 = some 0x07070707 ∧
      read32 (inPhase .s2Tail (List.replicate 16 7)).bufAt 4 = some 0x07070707 := by
  decide +kernel

/-- A payload in the scan, its encoded length set. -/
def scanned (payload : List Byte) (len : Word) : State :=
  let s := inPhase .s2Scan payload
  { s with s2 := { s.s2 with len := len } }

/-- R183: the marker may be at offset 0, and there may be none; bytes of the tail are not seen. -/
theorem witness_ScanFindsTheHighestSentinel :
    (∀ j, j < (scanned [0xFF, 0, 0xFF] 2).s2.len.toNat → ((scanned [0xFF, 0, 0xFF] 2).bufAt j).isSome = true) ∧
      (after (step (scanned [0xFF, 0, 0xFF] 2))).map (fun t => (t.s2.marker, t.phase)) = some (0, .s2Xor) ∧
      (after (step (scanned [0, 0, 0xFF] 2))).map (fun t => (t.status, t.err)) = some (.failed, 3) := by
  decide +kernel

theorem witness_KeyRotation :
    ({ rotating with s2 := { rotating.s2 with count := 1 } } : State).s2.count =
        rotating.seeds.length.get 0 + rotating.s2.fudge ∧
      rotating.s2.count ≠ rotating.seeds.length.get rotating.s2.idx + rotating.s2.fudge := by
  decide +kernel

theorem witness_XorDecodesBelowTheMarker :
    rotating.status = .busy ∧ rotating.phase = .s2Xor ∧
      ∀ j, j < rotating.s2.marker.toNat → (rotating.bufAt j).isSome = true := by
  decide +kernel

/-- A payload of one checksummed word below a marker at offset 4, with a stored pair. -/
def summed (high low : Word) : State :=
  let s := inPhase .s2Ck [0, 0, 0, 1, 0xFF]
  { s with s2 := { s.s2 with marker := 4, ckHigh := high, ckLow := low } }

theorem witness_WordsAre : (summed 0 0).WordsAre [0x00000001] := by
  intro j hj
  have : j = 0 := by simpa using hj
  subst this
  rfl

theorem witness_ChecksumDecides :
    (summed 0 0).s2.marker.toNat < (summed 0 0).payLen.toNat ∧
      ([0x00000001] : List Word).length = (summed 0 0).s2.marker.toNat / 4 ∧
      (after (step (summed 0xFFFFFFFE 0xFFFFFFFF))).map (fun t => t.phase) = some .s2Perm ∧
      (after (step (summed 0xFFFFFFFE 0xFFFFFFFE))).map (fun t => t.err) = some 4 := by
  decide +kernel

theorem witness_FlippedBitIsDetected :
    (∃ t, step (summed 0xFFFFFFFE 0xFFFFFFFF) = .next t ∧ t.phase = .s2Perm) ∧
      3 < (summed 0 0).s2.marker.toNat - (summed 0 0).s2.marker.toNat % 4 ∧ (summed 0 0).bufAt 3 = some 1 :=
  ⟨⟨_, rfl, by decide +kernel⟩, by decide, by decide⟩

theorem witness_BitsComeMostSignificantFirst :
    (building [0xA5, 0xC3] 1).br.mask = 0 ∧
      (building [0xA5, 0xC3] 1).br.cur.toNat + 2 ≤ (building [0xA5, 0xC3] 1).br.len.toNat ∧
      ∀ j, j < 2 → (building [0xA5, 0xC3] 1).bufAt (0 + 0 + j) = ([0xA5, 0xC3] : List Byte)[j]? := by
  decide +kernel

/-- A reader at the start of two bytes can deliver any codeword. -/
theorem witness_CanRead : ∀ n, n ≤ 16 → (building [0xA5, 0xC3] 1).CanRead n := by
  intro n hn
  refine ⟨.inl rfl, by decide, ?_, ?_⟩
  · have h : (building [0xA5, 0xC3] 1).br.left = 16 := by decide +kernel
    omega
  · intro j _ hj
    have hj : j < 2 := hj
    interval_cases j <;> decide

theorem witness_EndOfStreamIsSticky :
    (building [] 1).br.cur ≤ (building [] 1).br.len ∧ readBit (building [] 1) = .ok none (building [] 1) :=
  ⟨by decide, rfl⟩

theorem witness_DecodeOfEncodeAgrees :
    (Instr.cpyw 127 127).wf = true ∧
      (encode (.cpyw 127 127)).append (.tab [9]) = some (.tab [5, 127, 127, 9]) ∧ Instr.pfxz.wf = true ∧
      (encode .pfxz).append (.bits [true]) = some (.bits (bits [0, 0, 0, 0, 0, 0, 0, 1])) := by
  decide +kernel

theorem witness_EncodeOfDecodeAgrees : decode (.tab [5, 127, 127, 9]) = .ok (.cpyw 127 127, .tab [9]) := rfl

theorem witness_PrefixCodeIsCompleteAndPrefixFree :
    13 ≤ (List.replicate 13 false).length ∧ encode .pfx0 = .bits [true] ∧ ([true] : List Bool) <+: [true] ∧
      entryValue .pfxz = some 0 ∧ entryValue (.pfx6 63) = some 127 := by
  decide

theorem witness_StepRunsTheCodeword :
    (building [0x01] 1).ct.tcount < (building [0x01] 1).ct.tlen ∧
      (∃ t, takeBits 7 (building [0x01] 1) = .ok (some (bits [0, 0, 0, 0, 0, 0, 0])) t) ∧
      decodeBits (bits [0, 0, 0, 0, 0, 0, 0]) = .ok (.pfxz, []) :=
  ⟨by decide, ⟨_, rfl⟩, rfl⟩

/-- R238: the eight bits of `03` end inside a codeword of class 6. -/
theorem witness_ShortTableEndsTheBuilder :
    ∃ u, takeBits 8 (building [0x03] 1) = .ok (some (bits [0, 0, 0, 0, 0, 0, 1, 1])) u ∧ u.br.mask = 0 ∧
      u.br.len ≤ u.br.cur ∧ decodeBits (bits [0, 0, 0, 0, 0, 0, 1, 1]) = .error .bitsEnd :=
  ⟨_, rfl, by decide +kernel, by decide +kernel, rfl⟩

/-- A full table, and the empty one, from which no bit is read (R221, R238). -/
theorem witness_fullTable :
    (building [0xFF] 0).status = .busy ∧ (building [0xFF] 0).phase = .glzTab ∧
      (building [0xFF] 0).ct.tlen ≤ (building [0xFF] 0).ct.tcount ∧
      (after (step (building [0xFF] 0))).map (fun t => (t.phase, t.br, t.tab)) =
        some (.glzRun, (building [0xFF] 0).br, []) := by
  decide +kernel

/-- A sub-container at the header parse: every byte of it is a byte of the payload. -/
def subContainer (bytes : List Byte) (expected : Word) : State :=
  let s := inPhase .glzHdr bytes
  { s with expected := expected, s2 := { s.s2 with tLen := BitVec.ofNat 32 bytes.length } }

/-- The smallest sub-container: no table, no dictionary, no overflow stream, nothing after them. -/
def smallest : State := subContainer [0, 0, 0, 0, 0, 0, 0, 4, 0, 0, 0, 0, 0, 0, 0, 0, 0, 0, 0, 0] 0

theorem witness_HeaderParseAccepts :
    read32 smallest.bufAt 0 = some smallest.expected ∧ read32 smallest.bufAt 4 = some 4 ∧
      12 + (4 : Word).toNat ≤ smallest.s2.tLen.toNat ∧ read32 smallest.bufAt 12 = some 0 ∧
      read32 smallest.bufAt 16 = some 0 ∧ 16 + (4 : Word).toNat = smallest.s2.tLen.toNat ∧
      read32 smallest.bufAt 8 = some 0 ∧ smallest.expected.toNat ≤ smallest.cfg.capOut := by
  decide +kernel

theorem witness_HeaderParseRejectsInOrder :
    (subContainer [0, 0, 0, 0, 0, 0, 0] 0).s2.tLen.toNat < 8 ∧
      ((8 : Nat) ≤ (subContainer [0, 0, 0, 1, 0, 0, 0, 1] 2).s2.tLen.toNat ∧
        read32 (subContainer [0, 0, 0, 1, 0, 0, 0, 1] 2).bufAt 0 = some 1 ∧
        read32 (subContainer [0, 0, 0, 1, 0, 0, 0, 1] 2).bufAt 4 = some 1 ∧
        (1 : Word) ≠ (subContainer [0, 0, 0, 1, 0, 0, 0, 1] 2).expected) ∧
      ((1 : Word) = (subContainer [0, 0, 0, 1, 0, 0, 0, 1] 1).expected ∧
        (subContainer [0, 0, 0, 1, 0, 0, 0, 1] 1).s2.tLen.toNat - 8 < (1 : Word).toNat ∧
        (1 : Word).toNat ≤ (subContainer [0, 0, 0, 1, 0, 0, 0, 1] 1).cfg.capOut ∧
        ({ smallest.cfg with capOut := 0 } : Config).capOut < (1 : Word).toNat) := by
  decide +kernel

/-- Sub-containers of declared size 0 that fail the later checks of R245 one after another, each by its last byte. -/
def parsed (bytes : List Byte) : Option (Phase × BitVec 4) :=
  (after (step (subContainer bytes 0))).map (fun t => (t.phase, t.err))

theorem witness_laterParseChecks :
    parsed [0, 0, 0, 0, 0, 0, 0, 4, 0, 0, 0, 0, 0, 0, 0] = some (.glzHdr, 6) ∧
      parsed [0, 0, 0, 0, 0, 0, 0, 4, 0, 0, 0, 0, 0, 0, 0, 1] = some (.glzHdr, 6) ∧
      parsed [0, 0, 0, 0, 0, 0, 0, 4, 0, 0, 0, 0, 0, 0, 0, 1, 9, 0, 0, 0] = some (.glzHdr, 6) ∧
      parsed [0, 0, 0, 0, 0, 0, 0, 4, 0, 0, 0, 0, 0, 0, 0, 0, 0, 0, 0, 1] = some (.glzHdr, 6) ∧
      parsed (List.replicate 16 0) = some (.glzTab, 6) := by
  decide +kernel

theorem witness_tableTooLarge :
    (after (step { smallest with
        buf := smallest.buf.write 11 1, cfg := { smallest.cfg with capTable := 0 } })).map
      (fun t => (t.phase, t.err)) = some (.glzTab, 8) := by
  decide +kernel

/-- The loop at `CPYW 0, 2`, its dictionary byte 0, after two bytes. -/
def atCpyw : State := glaze [5, 0, 2] [0] [] [0x61, 0x62] 5

theorem witness_StepRunsTheGlazeInstruction :
    atCpyw.status = .busy ∧ atCpyw.phase = .glzRun ∧ atCpyw.glz.wp < atCpyw.expected ∧
      atCpyw.glz.tp.toNat + 3 ≤ atCpyw.ct.tcount.toNat ∧
      (∀ j, j < 3 → atCpyw.tab.read (atCpyw.glz.tp.toNat + j) = ([5, 0, 2] : List Byte)[j]?) ∧
      decodeTab [5, 0, 2] = .ok (.cpyw 0 2, []) :=
  ⟨rfl, rfl, by decide, by decide, by decide +kernel, rfl⟩

theorem witness_LitCopiesOneLiteral :
    (glaze [1] [0xAA] [] [] 1).glz.dp < (glaze [1] [0xAA] [] [] 1).glz.ld ∧
      (glaze [1] [0xAA] [] [] 1).bufAt (glaze [1] [0xAA] [] [] 1).dictAddr = some 0xAA ∧
      (glaze [1] [0xAA] [] [] 1).glz.wp < (glaze [1] [0xAA] [] [] 1).expected := by
  decide +kernel

theorem witness_RepCopiesOneByteBack :
    1 ≤ (2 : Byte).toNat ∧ (2 : Byte).toNat ≤ atCpyw.glz.wp.toNat ∧
      atCpyw.out.read (atCpyw.glz.wp.toNat - (2 : Byte).toNat) = some 0x61 ∧ atCpyw.glz.wp < atCpyw.expected := by
  decide +kernel

/-- Copies that fill `OUT` exactly: distance 2 without overlap, and distance 2 for three bytes with one. -/
theorem witness_CanCopy : atCpyw.CanCopy 2 2 ∧ atCpyw.CanCopy 2 3 ∧ atCpyw.CanCopy 1 1 := by
  have h : atCpyw.out.Covers atCpyw.glz.wp.toNat := by
    intro a ha
    have ha : a < 2 := ha
    interval_cases a <;> decide
  exact ⟨⟨by decide, by decide, by decide, h⟩, ⟨by decide, by decide, by decide, h⟩, by decide, by decide, by decide, h⟩

theorem witness_CpydAndCpyw :
    atCpyw.glz.dp < atCpyw.glz.ld ∧ atCpyw.bufAt atCpyw.dictAddr = some 0 ∧
      (0 : Byte).toNat + (1 : Byte).toNat + 1 = 2 ∧ (0 : Byte).toNat * 256 + (0 : Byte).toNat + (2 : Byte).toNat = 2 := by
  decide +kernel

theorem witness_RunCopiesLiterals :
    (List.replicate 8 (0x55 : Byte)).length = (0 : Byte).toNat + 8 ∧
      (glaze [6, 0] (List.replicate 8 0x55) [] [] 8).DictHolds (List.replicate 8 0x55) ∧
      (glaze [6, 0] (List.replicate 8 0x55) [] [] 8).glz.wp.toNat + 8 ≤
        (glaze [6, 0] (List.replicate 8 0x55) [] [] 8).expected.toNat := by
  refine ⟨rfl, ⟨by decide, fun j hj => ?_⟩, by decide⟩
  have hj : j < 8 := hj
  interval_cases j <;> rfl

/-- `RUNX` with its overflow byte 0: fourteen literals fill `OUT`. -/
def atRunx : State := glaze [7] (List.replicate 14 0x55) [0] [] 14

theorem witness_RunxCopiesLiterals :
    atRunx.glz.lp < atRunx.glz.lo ∧ atRunx.bufAt atRunx.ovfAddr = some 0 ∧
      (List.replicate 14 (0x55 : Byte)).length = (0 : Byte).toNat + 14 ∧ atRunx.DictHolds (List.replicate 14 0x55) ∧
      atRunx.glz.wp.toNat + 14 ≤ atRunx.expected.toNat := by
  refine ⟨by decide, by decide +kernel, rfl, ⟨by decide, fun j hj => ?_⟩, by decide⟩
  have hj : j < 14 := hj
  interval_cases j <;> rfl

/-- The loop with every stream exhausted and room left. -/
def exhausted : State := glaze [] [] [] [0x61] 3

theorem witness_ExhaustedStreamTraps :
    exhausted.glz.ld ≤ exhausted.glz.dp ∧ exhausted.glz.lo ≤ exhausted.glz.lp ∧ exhausted.status = .busy ∧
      exhausted.phase = .glzRun ∧ exhausted.glz.wp < exhausted.expected ∧
      exhausted.ct.tcount ≤ exhausted.glz.tp := by
  decide

/-- The table ends inside the operands: after the opcode byte, or after the first of two. -/
theorem witness_OperandsExhausted :
    (glaze [2] [] [] [0x61] 3).tab.read 0 = some 2 ∧ (glaze [2] [] [] [0x61] 3).ct.tcount.toNat ≤ 0 + 1 ∧
      (glaze [3, 1] [] [] [0x61] 3).tab.read 0 = some 3 ∧ (glaze [3, 1] [] [] [0x61] 3).ct.tcount.toNat ≤ 0 + 2 ∧
      (∀ j, j < 2 → ((glaze [3, 1] [] [] [0x61] 3).tab.read j).isSome = true) ∧
      (glaze [2] [] [] [0x61] 3).glz.tp < (glaze [2] [] [] [0x61] 3).ct.tcount ∧
      seen (glaze [2] [] [] [0x61] 3) = some ([0x61], [1, 0, 0, 1], 7) := by
  decide +kernel

theorem witness_BadDistanceTraps :
    (0 : Byte).toNat = 0 ∧ atCpyw.glz.wp.toNat < (3 : Byte).toNat ∧
      atCpyw.glz.wp.toNat < (1 : Byte).toNat + (1 : Byte).toNat + 1 ∧
      (0 : Byte).toNat * 256 + (0 : Byte).toNat + (0 : Byte).toNat = 0 ∧
      atCpyw.glz.wp.toNat < (0 : Byte).toNat * 256 + (0 : Byte).toNat + (3 : Byte).toNat ∧
      atCpyw.glz.wp.toNat < (0 : Byte).toNat + (2 : Byte).toNat + 1 ∧
      atCpyw.glz.dp < atCpyw.glz.ld ∧ atCpyw.bufAt atCpyw.dictAddr = some 0 := by
  decide +kernel

/-- The loop at an instruction of two bytes back, `OUT` with room for `size - 2` bytes more. -/
def shortOf (dict : List Byte) (size : Word) : State := glaze [] dict [5] [0x61, 0x62] size

theorem witness_PartWritten_full :
    (shortOf [0, 0] 2).glz.dp < (shortOf [0, 0] 2).glz.ld ∧
      (shortOf [0, 0] 2).bufAt (shortOf [0, 0] 2).dictAddr = some 0 ∧
      (shortOf [0, 0] 2).expected ≤ (shortOf [0, 0] 2).glz.wp ∧ (2 : Byte).toNat ≤ (shortOf [0, 0] 2).glz.wp.toNat ∧
      (shortOf [0, 0] 2).out.read ((shortOf [0, 0] 2).glz.wp.toNat - (2 : Byte).toNat) = some 0x61 := by
  decide +kernel

/-- Room for one byte of two, or for two of three; no room at all. -/
theorem witness_NoRoom :
    (shortOf [0] 3).NoRoom 2 2 ∧ (shortOf [0] 4).NoRoom 2 3 ∧ (shortOf [0] 2).NoRoom 1 1 := by
  have h (size : Word) : (shortOf [0] size).out.Covers (shortOf [0] size).glz.wp.toNat := by
    intro a ha
    have ha : a < 2 := ha
    interval_cases a <;> rfl
  exact
    ⟨⟨by decide, by decide, by decide, by decide, h 3⟩, ⟨by decide, by decide, by decide, by decide, h 4⟩, by decide,
      by decide, by decide, by decide, h 2⟩

/-- The dictionary ends after one literal, or the room does; `RUNX` reads its overflow byte 5. -/
theorem witness_RunEnds :
    (shortOf [7] 9).RunEnds [7] ∧ (shortOf [7, 8] 3).RunEnds [7] ∧ (shortOf [7, 8] 2).RunEnds [] ∧
      (shortOf [7] 9).glz.lp < (shortOf [7] 9).glz.lo ∧ (shortOf [7] 9).bufAt (shortOf [7] 9).ovfAddr = some 5 := by
  refine ⟨⟨⟨by decide, fun j hj => ?_⟩, by decide, .inl (by decide)⟩,
    ⟨⟨by decide, fun j hj => ?_⟩, by decide, .inr ⟨by decide, by decide⟩⟩,
    ⟨⟨by decide, fun j hj => absurd hj (Nat.not_lt_zero j)⟩, by decide, .inr ⟨by decide, by decide⟩⟩, by decide,
    by decide +kernel⟩
  · have hj : j < 1 := hj
    interval_cases j
    rfl
  · have hj : j < 1 := hj
    interval_cases j
    rfl

theorem witness_IllegalOpcodeIsRaised :
    (glaze [0] [] [] [] 1).glz.tp < (glaze [0] [] [] [] 1).ct.tcount ∧
      (glaze [0] [] [] [] 1).tab.read 0 = some 0 ∧ (glaze [8] [] [] [] 1).tab.read 0 = some 8 ∧
      8 ≤ (8 : Byte).toNat ∧ (glaze [0] [] [] [] 1).glz.wp < (glaze [0] [] [] [] 1).expected := by
  decide +kernel

/-- One that completes and one that traps. -/
theorem witness_GlazeInstructions :
    (∃ t, exec (.cpyw 0 2) atCpyw = .next t ∧ t.status = .busy) ∧ Instr.isGlaze (.cpyw 0 2) = true ∧
      ∃ t, exec .lit exhausted = .next t ∧ t.status = .failed :=
  ⟨⟨_, rfl, by decide +kernel⟩, rfl, ⟨_, rfl, by decide +kernel⟩⟩

/-- A loaded container of a given length in the header check, with a tag. -/
def header (tag : Byte) (n : Word) : State :=
  { inPhase .hdr [] with
    nIn := n, hdr := Memory.ofBytes 0 [0, 0, 0, tag, 0, 0, 0, 40, 1, 2, 3, 4, 5, 6, 7, 8] }

theorem witness_HeaderIsChecked :
    ({ (header 2 17).cfg with capIn := 16 } : Config).capIn < (header 2 17).nIn.toNat ∧
      (header 2 15).nIn.toNat < 16 ∧ (header 2 15).nIn.toNat ≤ (header 2 15).cfg.capIn ∧
      16 ≤ (header 2 16).nIn.toNat ∧ read32 (header 2 16).hdr.read 0 = some 2 ∧
      read32 (header 2 16).hdr.read 4 = some 40 ∧ read32 (header 3 16).hdr.read 0 = some 3 := by
  decide +kernel

theorem witness_ReservedWordsHaveNoEffect :
    (header 2 16).status = .busy ∧ (∃ t, step (header 2 16) = .next t ∧ t.phase = .seedchk) ∧
      atCpyw.status = .busy ∧ ∃ t, step atCpyw = .next t :=
  ⟨rfl, ⟨_, rfl, rfl⟩, rfl, ⟨_, rfl⟩⟩

theorem witness_SeedsAreChecked :
    (inPhase .seedchk []).seeds.fence ≠ 0 ∧ (inPhase .seedchk []).seeds.length.e0 ≠ 0 ∧
      (inPhase .seedchk []).seeds.length.e1 ≠ 0 ∧ (inPhase .seedchk []).seeds.length.e2 ≠ 0 ∧
      ({ inPhase .seedchk [] with seeds := State.reset.seeds } : State).seeds.fence = 0 := by
  decide

/-- A step that goes on, one that stays in its loop, one that faults, one that faults in the table set-up and one that ends
the decode. -/
theorem witness_PhasesRunInOrder :
    (after (step (header 2 16))).map (fun t => t.phase) = some .seedchk ∧
      (after (step atCpyw)).map (fun t => (t.status, t.phase)) = some (.busy, .glzRun) ∧
      (after (step exhausted)).map (fun t => (t.status, t.phase)) = some (.failed, .glzRun) ∧
      (after (step (subContainer (List.replicate 16 0) 0))).map (fun t => (t.status, t.phase)) =
        some (.failed, .glzTab) ∧
      (glaze [] [] [] [] 0).expected ≤ (glaze [] [] [] [] 0).glz.wp ∧
      (after (step (glaze [] [] [] [] 0))).map (fun t => (t.status, t.phase)) = some (.done, .finished) := by
  decide +kernel

/-- The host asks for a start. -/
def asked (st : Status) : State := { State.reset with status := st, err := 7, host := [.start] }

theorem witness_FaultIsTaken :
    (asked .failed).status = .failed ∧
      (after (step (asked .failed))).map (fun t => (t.status, t.err, t.phase)) = some (.busy, 0, .hdr) ∧
      (atCpyw.raise .decodeOverflow).host = [] := by
  decide +kernel

theorem witness_OutputOnlyInDone :
    ({ glaze [] [] [] [0x61] 1 with status := .done } : State).collect = .output (some [0x61]) ∧
      ({ exhausted with status := .failed, err := 7 } : State).collect = .failure 7 ∧ exhausted.collect = .nothing := by
  decide +kernel

theorem witness_BusySteps :
    atCpyw.status = .busy ∧ (∃ t, step atCpyw = .next t) ∧ atCpyw.phase ≠ .s2Xor ∧
      ∃ t, step rotating = .next t ∧ t.seeds.table ≠ rotating.seeds.table :=
  ⟨rfl, ⟨_, rfl⟩, by decide, ⟨_, rfl, by decide +kernel⟩⟩

/-- The host asks for the load of seventeen bytes. -/
def loading : State := { State.reset with host := [.loadContainer (List.replicate 17 9), .start] }

theorem witness_LoadedContainerReadsBack :
    loading.status ≠ .busy ∧ loading.host = .loadContainer (List.replicate 17 9) :: [.start] ∧
      (List.replicate 17 (9 : Byte)).length < 2 ^ 32 ∧
      (after (step loading)).map (fun t => (t.nIn, t.buf, t.hdr.read 15)) = some (17, [(0, 9)], some 9) := by
  decide +kernel

theorem witness_loadSeeds :
    ({ State.reset with host := [.loadSeeds rotating.seeds] } : State).host = .loadSeeds rotating.seeds :: [] ∧
      (after (step { State.reset with host := [.loadSeeds rotating.seeds] })).map (fun t => (t.seeds, t.host)) =
        some (rotating.seeds, []) ∧
      (after (step { State.reset with host := [.loadTable rotating.seeds.table] })).map (fun t => t.seeds) =
        some { State.reset.seeds with table := rotating.seeds.table } := by
  decide +kernel

theorem witness_PowerOnAndStart : (asked .idle).status ≠ .busy ∧ (asked .idle).host = .start :: [] := by decide

/-- Every cell below a number that small holds a value. -/
theorem covers_of_all {m : Memory} {n : Nat} (h : (List.range n).all (fun a => (m.read a).isSome) = true) :
    m.Covers n := by
  intro a ha
  exact List.all_eq_true.mp h a (List.mem_range.mpr ha)

/-- The loop in a state with the invariant: a payload of sixteen bytes, the sentinel and the tail behind the streams. -/
def running : State :=
  let s := glaze [5, 0, 2] (List.replicate 16 0) [] [0x61, 0x62] 5
  { s with
    glz := { s.glz with ld := 1, ovfBase := 1, lo := 0 }, s2 := { s.s2 with len := 4, marker := 3, tLen := 0 } }

theorem witness_Inv : running.Inv ∧ running.status = .busy ∧ ∃ t, step running = .next t := by
  refine ⟨?_, rfl, ⟨_, rfl⟩⟩
  exact
    { memories := ⟨by decide +kernel, by decide +kernel, by decide +kernel, by decide +kernel⟩
      legal := by decide +kernel
      codes := by decide +kernel
      entries := by decide +kernel
      loaded := ⟨covers_of_all (by decide +kernel), covers_of_all (by decide +kernel)⟩
      active := by decide
      payload := fun _ => by decide +kernel
      seeds := fun _ => by decide +kernel
      tail := fun _ => by decide +kernel
      marker := fun _ => by decide +kernel
      truncated := fun _ => by decide +kernel
      streams := fun _ => by decide +kernel
      table := fun _ => covers_of_all (by decide +kernel)
      reader := fun _ h => absurd h (by decide)
      cursors := fun _ _ =>
        ⟨by decide, by decide, by decide, by decide, covers_of_all (by decide +kernel)⟩
      output := fun h => absurd h (by decide) }

/-- Two machines that differ in registers and memories an earlier decode left, each two steps into a decode. -/
theorem witness_NothingSurvivesADecode :
    (header 2 16) ≠ { header 2 16 with out := [(0, 1)], expected := 9 } ∧ (header 2 16).host = [] ∧
      (∃ t, Sys2Proof.core.run 2 (header 2 16).start = .next t ∧ t.phase = .s1a) ∧
      ∃ t, Sys2Proof.core.run 2 ({ header 2 16 with out := [(0, 1)], expected := 9 } : State).start = .next t :=
  ⟨by decide +kernel, rfl, ⟨_, rfl, rfl⟩, ⟨_, rfl⟩⟩

end Sys2Proof.Tests
end

section
/-! SUPPORT. What a step does while the machine is not `BUSY` (spec/10_state.md R55), and what power-on leaves
(spec/70_reset_and_hazards.md R60). -/

namespace Sys2Proof.Proofs
open Sys2Proof Sys2Proof.Machine

/-- Outside `BUSY` the host has the move. -/
theorem step_of_not_busy {s : State} (h : s.status ≠ .busy) : step s = hostStep s := by
  unfold step
  cases hs : s.status with
  | busy => exact absurd hs h
  | idle | done | failed => rfl

/-- With no request of the host waiting, the machine stays as it is (log 4). -/
theorem step_of_no_request {s : State} (h : s.status ≠ .busy) (hhost : s.host = []) : step s = .next s := by
  rw [step_of_not_busy h, hostStep, hhost]

/-- The request at the head of the host's list is taken from it and run. -/
theorem step_of_request {s : State} {a : HostAction} {rest : List HostAction} (h : s.status ≠ .busy)
    (hhost : s.host = a :: rest) : step s = hostAct a { s with host := rest } := by
  rw [step_of_not_busy h, hostStep, hhost]

/-- `start` is taken in every status but `BUSY`. -/
theorem step_of_start {s : State} {rest : List HostAction} (h : s.status ≠ .busy) (hhost : s.host = .start :: rest) :
    step s = .next ({ s with host := rest } : State).start :=
  step_of_request h hhost

/-- The codes of R300 are ten different values of `ERR` from 1 to 10 (R45). -/
theorem errCodes_legal : Params.errCodes.legal := by decide

/-- The parameters at the values the spec takes meet the conditions it puts on them (R11, R45). -/
theorem config_admissible : Params.config.admissible :=
  ⟨by decide, errCodes_legal⟩

/-- Settles O55: the power-on clauses are the fields of `State.reset`, whose memories are empty and whose host has no
request; the step that takes `start` leads to `State.start`. -/
theorem powerOnAndStart : Obligations.PowerOnAndStart := by
  unfold Obligations.PowerOnAndStart
  refine ⟨rfl, rfl, step_of_no_request (by decide) rfl, ⟨rfl, rfl, rfl, rfl, rfl, config_admissible⟩, ?_, ?_⟩
  · intro a
    exact ⟨Memory.read_nil a, Memory.read_nil a, Memory.read_nil a, Memory.read_nil a⟩
  · intro s rest hstatus hhost
    exact ⟨_, step_of_start hstatus hhost, by simp⟩

end Sys2Proof.Proofs
end

section
/-! SUPPORT. A step of a `BUSY` machine as one operation (spec/47_orchestrator.md R285), and what every operation of a
decode keeps: the host's side, the container, the SeedSet but `TABLE`, and the memories in canonical form. -/

namespace Sys2Proof.Proofs
open Sys2Proof Sys2Proof.Machine

/-! ## A step of a running decode is one operation -/

/-- The copy of a Glaze instruction, from the state in which `TP` is past its table bytes (R253, R261 to R267). -/
def copyResult : Instr → State → Result Unit
  | .lit, s => (fetchDict s).andThen put
  | .rep d, s => backref (dist2 d) repLen s
  | .cpy d0 l0, s => backref (dist3 d0 l0) (copyLen l0) s
  | .cpyd l0, s => (fetchDict s).andThen fun d0 t => backref (dist4 d0 l0) (copyLen l0) t
  | .cpyw dHi l0, s => (fetchDict s).andThen fun dLo t => backref (dist5 dHi l0 dLo) (copyLen l0) t
  | .run l0, s => litrun (runLen l0) s
  | .runx, s => (fetchOvf s).andThen fun l0 t => litrun (runxLen l0) t
  | _, s => .ok () s

/-- The zeros that a codeword's class counts and the entry the codeword decodes to (R110). -/
def codewordEntry : Instr → Nat × Byte
  | .pfx0 => (0, entryOf 0 0)
  | .pfx1 p => (1, entryOf 1 p.toNat)
  | .pfx2 p => (2, entryOf 2 p.toNat)
  | .pfx3 p => (3, entryOf 3 p.toNat)
  | .pfx4 p => (4, entryOf 4 p.toNat)
  | .pfx5 p => (5, entryOf 5 p.toNat)
  | .pfx6 p => (6, entryOf 6 p.toNat)
  | .pfxz => (Params.prefixCap, 0)
  | _ => (0, 0)

/-- An instruction's meaning as an operation. -/
def instrResult (i : Instr) (s : State) : Result Unit :=
  if i.isGlaze then copyResult i (s.advanceTp i.size)
  else emitEntry i.size (codewordEntry i).1 (codewordEntry i).2 s

theorem exec_eq_instrResult (i : Instr) (s : State) : exec i s = (instrResult i s).toOutcome := by
  cases i <;> rfl

/-- What a fetch comes to, as an operation on the state before it. -/
def fetchedResult (f : Fetched) (s : State) : Result Unit :=
  match f with
  | .run i => instrResult i s
  | .over r => r

theorem go_eq_fetchedResult (f : Fetched) (s : State) : f.go s = (fetchedResult f s).toOutcome := by
  match f with
  | .run i => exact exec_eq_instrResult i s
  | .over _ => rfl

/-- What becomes of the bytes of a Glaze instruction fetched from `s`, with `TP` past them in `t` (R247, R268). -/
def afterTabBytes (s : State) (bytes : List Byte) (t : State) : Result Unit :=
  match decodeTab bytes with
  | .ok (i, _) => instrResult i s
  | .error (.illegalOpcode _) => .raised .illegalOpcode t
  | .error _ => .raised .decodeOverflow t

/-- What becomes of the bits of a codeword fetched from `s`, with the reader past them in `t` (R222, R225). -/
def afterCodewordBits (s : State) (bits : Option (List Bool)) (t : State) : Result Unit :=
  match bits.map decodeBits with
  | some (.ok (i, _)) => instrResult i s
  | _ => .ok () t.closeTable

theorem fetchGlaze_eq_andThen (s : State) :
    fetchedResult (fetchGlaze s) s = (fetchGlazeBytes s).andThen (afterTabBytes s) := by
  unfold fetchGlaze
  cases fetchGlazeBytes s with
  | raised k t => rfl
  | stuck x => rfl
  | ok bytes t =>
    simp only [Result.ok_andThen, afterTabBytes]
    cases decodeTab bytes with
    | ok p => rfl
    | error e => cases e <;> rfl

theorem fetchCodeword_eq_andThen (s : State) :
    fetchedResult (fetchCodeword s) s = (fetchCodewordBits s).andThen (afterCodewordBits s) := by
  unfold fetchCodeword
  cases fetchCodewordBits s with
  | raised k t => rfl
  | stuck x => rfl
  | ok bits t =>
    cases bits with
    | none => rfl
    | some bits =>
      simp only [Result.ok_andThen, afterCodewordBits, Option.map_some]
      cases decodeBits bits with
      | ok p => rfl
      | error e => rfl

/-- The unit that `PHASE` names, as one operation (R285). -/
def busyResult (s : State) : Result Unit :=
  match s.phase with
  | .hdr => checkHeader s
  | .seedchk => checkSeeds s
  | .s1a => passA s
  | .s1b => passB s
  | .s2Tail => readTail s
  | .s2Scan => scanSentinel s
  | .s2Xor => xorDecode s
  | .s2Ck => checksum s
  | .s2Perm => permuteLeading s
  | .glzHdr => parseHeader s
  | .glzTab => if s.ct.tcount < s.ct.tlen then fetchedResult (fetchCodeword s) s else .ok () s.closeTable
  | .glzRun => if s.glz.wp < s.expected then fetchedResult (fetchGlaze s) s else .ok () s.finish
  | .finished => .ok () s

theorem step_of_busy {s : State} (h : s.status = .busy) : step s = (busyResult s).toOutcome := by
  unfold step
  rw [h]
  show busyStep s = _
  unfold busyStep busyResult
  cases s.phase with
  | glzTab =>
    simp only [go_eq_fetchedResult]
    split <;> rfl
  | glzRun =>
    simp only [go_eq_fetchedResult]
    split <;> rfl
  | _ => rfl

/-! ## The instructions that a fetch finds -/

theorem entryOf_lt {k p : Nat} (hk : k ≤ 6) (hp : p < 2 ^ k) : (entryOf k p).toNat < 128 := by
  have hpow : 2 ^ k ≤ 64 := Nat.pow_le_pow_right (by decide) hk
  have hone : ((1 : Byte) <<< k).toNat < 2 ^ 7 := by
    simp only [BitVec.toNat_shiftLeft, Nat.shiftLeft_eq]
    exact Nat.lt_of_le_of_lt (Nat.mod_le _ _) (by simp; omega)
  have hpay : (BitVec.ofNat 8 p).toNat < 2 ^ 7 := by
    simp only [BitVec.toNat_ofNat]
    omega
  simpa [entryOf] using Nat.or_lt_two_pow hone hpay

/-- No codeword emits a value above 127 (spec/45_code_table.md R227). -/
theorem codewordEntry_lt (i : Instr) : (codewordEntry i).2.toNat < 128 := by
  cases i with
  | pfx0 => exact entryOf_lt (by decide) (by decide)
  | pfx1 p => exact entryOf_lt (by decide) p.isLt
  | pfx2 p => exact entryOf_lt (by decide) p.isLt
  | pfx3 p => exact entryOf_lt (by decide) p.isLt
  | pfx4 p => exact entryOf_lt (by decide) p.isLt
  | pfx5 p => exact entryOf_lt (by decide) p.isLt
  | pfx6 p => exact entryOf_lt (by decide) p.isLt
  | _ => exact (by decide : (0 : Byte).toNat < 128)

theorem pfxOfClass_isGlaze (k p : Nat) : (pfxOfClass k p).isGlaze = false := by
  unfold pfxOfClass
  split <;> rfl

theorem decodeBitsAfter_isGlaze {bits rest : List Bool} {k : Nat} {i : Instr}
    (h : decodeBitsAfter k bits = .ok (i, rest)) : i.isGlaze = false := by
  induction bits generalizing k with
  | nil => simp [decodeBitsAfter] at h
  | cons b bits ih =>
    cases b with
    | true =>
      simp only [decodeBitsAfter] at h
      split at h
      · simp at h
      · cases h
        exact pfxOfClass_isGlaze _ _
    | false =>
      simp only [decodeBitsAfter] at h
      split at h
      · cases h
        rfl
      · exact ih h

/-- The bits decode to codewords alone. -/
theorem decodeBits_isGlaze {bits rest : List Bool} {i : Instr} (h : decodeBits bits = .ok (i, rest)) :
    i.isGlaze = false := decodeBitsAfter_isGlaze h

/-- The table bytes decode to Glaze instructions alone, each as long as the bytes it takes. -/
theorem decodeTab_ok {bytes rest : List Byte} {i : Instr} (h : decodeTab bytes = .ok (i, rest)) :
    i.isGlaze = true ∧ i.size ≤ bytes.length := by
  unfold decodeTab at h
  split at h
  · simp at h
  · split at h <;> cases h <;> simp [Instr.isGlaze, Instr.size]

/-! ## What every operation of a decode keeps -/

/-- What an operation of a decode in the phase `ph` keeps: every field but the registers and memories that a decode
writes, `TABLE` outside step 3 of Stage-2 (spec/10_state.md R31), the memories in canonical form, `BUF` with nothing
lost, and the range of the `TAB` entries (R51). -/
structure Kept (ph : Phase) (s t : State) : Prop where
  same : t =
    { s with
      free := t.free, status := t.status, phase := t.phase, seeds := { s.seeds with table := t.seeds.table }
      prng := t.prng, expected := t.expected, payLen := t.payLen, pe := t.pe, s2 := t.s2, br := t.br, ct := t.ct
      glz := t.glz, buf := t.buf, pool := t.pool, ord := t.ord, tab := t.tab, out := t.out }
  table : ph ≠ .s2Xor → t.seeds.table = s.seeds.table
  buf_wf : s.buf.wf → t.buf.wf
  buf_covers : ∀ n, s.buf.Covers n → t.buf.Covers n
  tab_wf : s.tab.wf → t.tab.wf
  entries : (∀ c ∈ s.tab, c.2.toNat < 128) → ∀ c ∈ t.tab, c.2.toNat < 128
  out_wf : s.out.wf → t.out.wf

section
variable {ph : Phase} {s t u : State}

theorem Kept.cfg (h : Kept ph s t) : t.cfg = s.cfg := by rw [h.same]
theorem Kept.host (h : Kept ph s t) : t.host = s.host := by rw [h.same]
theorem Kept.err (h : Kept ph s t) : t.err = s.err := by rw [h.same]
theorem Kept.nIn (h : Kept ph s t) : t.nIn = s.nIn := by rw [h.same]
theorem Kept.hdr (h : Kept ph s t) : t.hdr = s.hdr := by rw [h.same]
theorem Kept.main (h : Kept ph s t) : t.seeds.main = s.seeds.main := by rw [h.same]
theorem Kept.length (h : Kept ph s t) : t.seeds.length = s.seeds.length := by rw [h.same]
theorem Kept.fence (h : Kept ph s t) : t.seeds.fence = s.seeds.fence := by rw [h.same]

/-- An operation that writes registers and touches neither the SeedSet nor a byte memory. -/
theorem Kept.registers
    (h : t =
      { s with
        free := t.free, status := t.status, phase := t.phase, prng := t.prng, expected := t.expected
        payLen := t.payLen, pe := t.pe, s2 := t.s2, br := t.br, ct := t.ct, glz := t.glz, pool := t.pool
        ord := t.ord }) :
    Kept ph s t where
  same := by rw [h]
  table _ := by rw [h]
  buf_wf := by rw [h]; exact id
  buf_covers := by rw [h]; exact fun _ => id
  tab_wf := by rw [h]; exact id
  entries := by rw [h]; exact id
  out_wf := by rw [h]; exact id

theorem Kept.refl (ph : Phase) (s : State) : Kept ph s s := .registers rfl

theorem Kept.trans (h : Kept ph s t) (h' : Kept ph t u) : Kept ph s u where
  same := by
    have e := h'.same
    rw [h.same] at e
    rw [e]
  table hph := (h'.table hph).trans (h.table hph)
  buf_wf w := h'.buf_wf (h.buf_wf w)
  buf_covers n w := h'.buf_covers n (h.buf_covers n w)
  tab_wf w := h'.tab_wf (h.tab_wf w)
  entries w := h'.entries (h.entries w)
  out_wf w := h'.out_wf (h.out_wf w)

theorem kept_of_permFrame (h : PermFrame s t) : Kept ph s t where
  same := by rw [h.same]
  table _ := by rw [h.same]
  buf_wf := h.wf
  buf_covers := h.covers
  tab_wf := by rw [h.same]; exact id
  entries := by rw [h.same]; exact id
  out_wf := by rw [h.same]; exact id

theorem kept_of_wordFrame (h : WordFrame s t) : Kept ph s t :=
  kept_of_permFrame ⟨by rw [h.same], h.wf, h.covers⟩

theorem kept_of_xorFrame (h : XorFrame s t) : Kept .s2Xor s t where
  same := by rw [h.same]
  table hph := absurd rfl hph
  buf_wf := h.wf
  buf_covers := h.covers
  tab_wf := by rw [h.same]; exact id
  entries := by rw [h.same]; exact id
  out_wf := by rw [h.same]; exact id

theorem kept_of_copyFrame (h : CopyFrame s t) : Kept ph s t where
  same := by rw [h.same]
  table _ := by rw [h.same]
  buf_wf := by rw [h.same]; exact id
  buf_covers := by rw [h.same]; exact fun _ => id
  tab_wf := by rw [h.same]; exact id
  entries := by rw [h.same]; exact id
  out_wf := h.wf

theorem kept_pushTab {k : Nat} {v : Byte} (hv : v.toNat < 128) : Kept ph s (s.pushTab k v) where
  same := rfl
  table _ := rfl
  buf_wf := id
  buf_covers _ := id
  tab_wf w := Memory.write_wf w _ _
  entries w c hc := by
    rcases Memory.mem_write hc with rfl | hc
    · exact hv
    · exact w c hc
  out_wf := id

/-- A sequence of operations keeps what each of them keeps. -/
theorem kept_andThen {α β : Type} {r : Result α} {f : α → State → Result β} (hr : ∀ u, r.Leaves u → Kept ph s u)
    (hf : ∀ a u v, r = .ok a u → (f a u).Leaves v → Kept ph u v) (h : (r.andThen f).Leaves t) : Kept ph s t :=
  Result.andThen_keeps (R := Kept ph) Kept.trans hr hf h

theorem kept_of_ok {α : Type} {a : α} (h : (Result.ok a u).Leaves t) (hu : Kept ph s u) : Kept ph s t :=
  Result.leaves_ok.mp h ▸ hu

theorem kept_of_raised {α : Type} {k : ErrKind} (h : (Result.raised k u : Result α).Leaves t) (hu : Kept ph s u) :
    Kept ph s t :=
  Result.leaves_raised.mp h ▸ hu

theorem kept_of_eq (h : t = s) : Kept ph s t := h ▸ .refl ph s

theorem readHdr32_leaves {a : Nat} (h : (readHdr32 a s).Leaves t) : t = s := by
  unfold readHdr32 at h
  cases hb : read32 s.hdr.read a <;> simp_all [Result.leaves_ok, Result.leaves_stuck]

theorem lengthPrefix_leaves {pos : Nat} (h : (lengthPrefix pos s).Leaves t) : t = s := by
  unfold lengthPrefix at h
  split at h
  · exact Result.leaves_raised.mp h
  · exact readBuf32_leaves h

/-! ## Phase by phase -/

theorem checkHeader_kept (h : (checkHeader s).Leaves t) : Kept ph s t := by
  unfold checkHeader at h
  split at h
  · exact kept_of_raised h (.refl ph s)
  · split at h
    · exact kept_of_raised h (.refl ph s)
    · refine kept_andThen (fun _ h => kept_of_eq (readHdr32_leaves h)) (fun _ u _ _ h => ?_) h
      split at h
      · exact kept_of_raised h (.refl ph u)
      · refine kept_andThen (fun _ h => kept_of_eq (readHdr32_leaves h)) (fun _ u _ _ h => ?_) h
        exact kept_of_ok h (.registers rfl)

theorem checkSeeds_kept (h : (checkSeeds s).Leaves t) : Kept ph s t := by
  unfold checkSeeds at h
  split at h
  · exact kept_of_raised h (.refl ph s)
  · exact kept_of_ok h (.registers rfl)

theorem passA_kept (h : (passA s).Leaves t) : Kept ph s t :=
  kept_andThen (fun _ h => kept_of_permFrame (permuteChunks_leaves h))
    (fun _ _ _ _ h => kept_of_ok h (.registers rfl)) h

theorem passB_kept (h : (passB s).Leaves t) : Kept ph s t :=
  kept_andThen (fun _ h => kept_of_wordFrame ((WordFrame.setPrng _ s).trans (passBFrom_leaves h)))
    (fun _ _ _ _ h => kept_of_ok h (.registers rfl)) h

theorem readTail_kept (h : (readTail s).Leaves t) : Kept ph s t := by
  unfold readTail at h
  simp only at h
  split at h
  · exact kept_of_raised h (.registers rfl)
  · refine Kept.trans (.registers rfl)
      (kept_andThen (fun _ h => kept_of_eq (readBuf32_leaves h)) (fun _ _ _ _ h => ?_) h)
    refine kept_andThen (fun _ h => kept_of_eq (readBuf32_leaves h)) (fun _ _ _ _ h => ?_) h
    refine kept_andThen (fun _ h => kept_of_eq (readBuf32_leaves h)) (fun _ _ _ _ h => ?_) h
    exact kept_of_ok h (.registers rfl)

theorem scanSentinel_kept (h : (scanSentinel s).Leaves t) : Kept ph s t :=
  kept_andThen (fun _ h => kept_of_eq (scanBelow_leaves h)) (fun _ _ _ _ h => kept_of_ok h (.registers rfl)) h

theorem xorDecode_kept (h : (xorDecode s).Leaves t) : Kept .s2Xor s t :=
  kept_andThen (fun _ h => Kept.trans (.registers rfl) (kept_of_xorFrame (xorFrom_leaves h)))
    (fun _ _ _ _ h => kept_of_ok h (.registers rfl)) h

theorem foldFrom_kept {words j : Nat} (h : (foldFrom words j s).Leaves t) : Kept ph s t :=
  .registers (by rw [foldFrom_leaves h])

theorem checksum_kept (h : (checksum s).Leaves t) : Kept ph s t := by
  refine kept_andThen (fun _ h => kept_of_wordFrame (writeBuf_wordFrame h)) (fun _ u _ _ h => ?_) h
  refine kept_andThen (fun v h => Kept.trans (.registers rfl) (foldFrom_kept h)) (fun _ v _ _ h => ?_) h
  split at h
  · exact kept_of_raised h (.refl ph v)
  · exact kept_of_ok h (.registers rfl)

theorem permuteLeading_kept (h : (permuteLeading s).Leaves t) : Kept ph s t :=
  kept_andThen (fun _ h => kept_of_permFrame (permuteChunks_leaves h))
    (fun _ _ _ _ h => kept_of_ok h (.registers rfl)) h

theorem openTable_kept (h : (openTable s).Leaves t) : Kept ph s t := by
  unfold openTable at h
  split at h
  · exact kept_of_raised h (.refl ph s)
  · refine kept_andThen (fun _ h => kept_of_eq (readBuf32_leaves h)) (fun _ u _ _ h => ?_) h
    simp only at h
    split at h
    · exact kept_of_raised h (.registers rfl)
    · exact kept_of_ok h (.registers rfl)

theorem parseHeader_kept (h : (parseHeader s).Leaves t) : Kept ph s t := by
  unfold parseHeader at h
  simp only at h
  split at h
  · exact kept_of_raised h (.refl ph s)
  refine kept_andThen (fun _ h => kept_of_eq (readBuf32_leaves h)) (fun _ _ _ _ h => ?_) h
  refine kept_andThen (fun _ h => kept_of_eq (readBuf32_leaves h)) (fun _ _ _ _ h => ?_) h
  split at h
  · exact kept_of_raised h (.registers rfl)
  split at h
  · exact kept_of_raised h (.registers rfl)
  split at h
  · exact kept_of_raised h (.registers rfl)
  refine Kept.trans (.registers rfl)
    (kept_andThen (fun _ h => kept_of_eq (lengthPrefix_leaves h)) (fun _ _ _ _ h => ?_) h)
  split at h
  · exact kept_of_raised h (.registers rfl)
  refine Kept.trans (.registers rfl)
    (kept_andThen (fun _ h => kept_of_eq (lengthPrefix_leaves h)) (fun _ _ _ _ h => ?_) h)
  split at h
  · exact kept_of_raised h (.registers rfl)
  · exact Kept.trans (.registers rfl) (openTable_kept h)

theorem takeBits_kept {n : Nat} (h : (takeBits n s).Leaves t) : Kept ph s t :=
  .registers (by rw [takeBits_leaves h])

theorem emitEntry_kept {bits k : Nat} {v : Byte} (hv : v.toNat < 128) (h : (emitEntry bits k v s).Leaves t) :
    Kept ph s t := by
  refine kept_andThen (fun _ h => takeBits_kept h) (fun r u _ _ h => ?_) h
  cases r with
  | some _ => exact kept_of_ok h (kept_pushTab hv)
  | none => exact kept_of_ok h (.registers rfl)

/-- Whatever the copy of a Glaze instruction leaves, it has changed no more than a copy may. -/
theorem copyResult_leaves {i : Instr} (h : (copyResult i s).Leaves t) : CopyFrame s t := by
  cases i with
  | rep _ | cpy _ _ => exact backref_leaves h
  | run _ => exact litrun_leaves h
  | lit =>
    exact Result.andThen_keeps (R := CopyFrame) CopyFrame.trans (fun _ h => fetchDict_leaves h)
      (fun _ _ _ _ h => put_leaves h) h
  | cpyd _ | cpyw _ _ =>
    exact Result.andThen_keeps (R := CopyFrame) CopyFrame.trans (fun _ h => fetchDict_leaves h)
      (fun _ _ _ _ h => backref_leaves h) h
  | runx =>
    exact Result.andThen_keeps (R := CopyFrame) CopyFrame.trans (fun _ h => fetchOvf_leaves h)
      (fun _ _ _ _ h => litrun_leaves h) h
  | _ => exact Result.leaves_ok.mp h ▸ CopyFrame.refl s

theorem instrResult_kept {i : Instr} (h : (instrResult i s).Leaves t) : Kept ph s t := by
  unfold instrResult at h
  split at h
  · exact Kept.trans (.registers rfl) (kept_of_copyFrame (copyResult_leaves h))
  · exact emitEntry_kept (codewordEntry_lt i) h

theorem fetchTab_kept (h : (fetchTab s).Leaves t) : Kept ph s t := by
  rcases h with ⟨v, h⟩ | ⟨k, h⟩
  · obtain ⟨_, _, rfl⟩ := fetchTab_eq_ok.mp h
    exact .registers rfl
  · obtain ⟨_, _, rfl⟩ := fetchTab_eq_raised.mp h
    exact .refl ph _

theorem fetchOperands_kept {n : Nat} (h : (fetchOperands n s).Leaves t) : Kept ph s t := by
  induction n generalizing s t with
  | zero => exact kept_of_ok h (.refl ph s)
  | succ n ih =>
    refine kept_andThen (fun _ h => fetchTab_kept h) (fun _ _ _ _ h => ?_) h
    exact kept_andThen (fun _ h => ih h) (fun _ v _ _ h => kept_of_ok h (.refl ph v)) h

theorem fetchGlazeBytes_kept (h : (fetchGlazeBytes s).Leaves t) : Kept ph s t := by
  refine kept_andThen (fun _ h => fetchTab_kept h) (fun _ _ _ _ h => ?_) h
  exact kept_andThen (fun _ h => fetchOperands_kept h) (fun _ v _ _ h => kept_of_ok h (.refl ph v)) h

/-- What fetching a codeword may change: the reader's registers and `CODE_LEN` (R222). -/
def ReaderMoved (s t : State) : Prop := t = { s with br := t.br, ct := { s.ct with codeLen := t.ct.codeLen } }

theorem ReaderMoved.trans (h : ReaderMoved s t) (h' : ReaderMoved t u) : ReaderMoved s u := by
  unfold ReaderMoved at h h' ⊢
  rw [h] at h'
  exact h'

theorem readBit_moved (h : (readBit s).Leaves t) : ReaderMoved s t := by
  rw [readBit_leaves h]
  rfl

theorem takeBits_moved {n : Nat} (h : (takeBits n s).Leaves t) : ReaderMoved s t := by
  rw [takeBits_leaves h]
  rfl

theorem moved_of_ok {α : Type} {a : α} (h : (Result.ok a s).Leaves t) : ReaderMoved s t := by
  rw [Result.leaves_ok.mp h]
  rfl

theorem fetchPrefix_moved {n : Nat} (h : (fetchPrefix n s).Leaves t) : ReaderMoved s t := by
  induction n generalizing s t with
  | zero => exact moved_of_ok h
  | succ n ih =>
    refine Result.andThen_keeps (R := ReaderMoved) ReaderMoved.trans (fun _ h => readBit_moved h)
      (fun b u _ _ h => ?_) h
    match b with
    | none => exact moved_of_ok h
    | some true => exact moved_of_ok h
    | some false =>
      have hzero : ReaderMoved u u.countZero := rfl
      exact Result.andThen_keeps (R := ReaderMoved) ReaderMoved.trans (fun _ h => hzero.trans (ih h))
        (fun _ _ _ _ h => moved_of_ok h) h

theorem fetchCodewordBits_moved (h : (fetchCodewordBits s).Leaves t) : ReaderMoved s t := by
  have hzero : ReaderMoved s { s with ct := { s.ct with codeLen := 0 } } := rfl
  refine Result.andThen_keeps (R := ReaderMoved) ReaderMoved.trans (fun _ h => hzero.trans (fetchPrefix_moved h))
    (fun pre u _ _ h => ?_) h
  cases pre with
  | none => exact moved_of_ok h
  | some pre =>
    simp only at h
    split at h
    · exact moved_of_ok h
    · exact Result.andThen_keeps (R := ReaderMoved) ReaderMoved.trans (fun _ h => takeBits_moved h)
        (fun _ _ _ _ h => moved_of_ok h) h

theorem kept_of_moved (h : ReaderMoved s t) : Kept ph s t := .registers (by rw [h])

theorem fetchGlaze_kept (h : (fetchedResult (fetchGlaze s) s).Leaves t) : Kept ph s t := by
  rw [fetchGlaze_eq_andThen] at h
  rcases Result.andThen_leaves h with h | ⟨bytes, u, hu, h⟩
  · exact fetchGlazeBytes_kept h
  · have hk : Kept ph s u := fetchGlazeBytes_kept (.inl ⟨_, hu⟩)
    unfold afterTabBytes at h
    split at h
    · exact instrResult_kept h
    · exact kept_of_raised h hk
    · exact kept_of_raised h hk

theorem fetchCodeword_kept (h : (fetchedResult (fetchCodeword s) s).Leaves t) : Kept ph s t := by
  rw [fetchCodeword_eq_andThen] at h
  rcases Result.andThen_leaves h with h | ⟨bits, u, hu, h⟩
  · exact kept_of_moved (fetchCodewordBits_moved h)
  · have hk : Kept ph s u := kept_of_moved (fetchCodewordBits_moved (.inl ⟨_, hu⟩))
    unfold afterCodewordBits at h
    split at h
    · exact instrResult_kept h
    · exact kept_of_ok h (hk.trans (.registers rfl))

/-- Every step of a decode keeps what its phase keeps, whether it goes on or raises. -/
theorem busyResult_kept (h : (busyResult s).Leaves t) : Kept s.phase s t := by
  unfold busyResult at h
  cases hp : s.phase with
  | hdr => rw [hp] at h; exact checkHeader_kept h
  | seedchk => rw [hp] at h; exact checkSeeds_kept h
  | s1a => rw [hp] at h; exact passA_kept h
  | s1b => rw [hp] at h; exact passB_kept h
  | s2Tail => rw [hp] at h; exact readTail_kept h
  | s2Scan => rw [hp] at h; exact scanSentinel_kept h
  | s2Xor => rw [hp] at h; exact xorDecode_kept h
  | s2Ck => rw [hp] at h; exact checksum_kept h
  | s2Perm => rw [hp] at h; exact permuteLeading_kept h
  | glzHdr => rw [hp] at h; exact parseHeader_kept h
  | glzTab =>
    simp only [hp] at h
    split at h
    · exact fetchCodeword_kept h
    · exact kept_of_ok h (.registers rfl)
  | glzRun =>
    simp only [hp] at h
    split at h
    · exact fetchGlaze_kept h
    · exact kept_of_ok h (.registers rfl)
  | finished => rw [hp] at h; exact kept_of_ok h (.refl _ s)
end

/-- A step of a `BUSY` machine leaves what its operation leaves, with the fault taken if it raised one. -/
theorem step_of_busy_eq_next {s t : State} (h : s.status = .busy) (hs : step s = .next t) :
    ∃ u, (busyResult s).Leaves u ∧ (t = u ∨ ∃ k, t = u.raise k) := by
  rw [step_of_busy h] at hs
  rcases Result.toOutcome_eq_next.mp hs with hok | ⟨k, u, hr, ht⟩
  · exact ⟨t, .inl ⟨(), hok⟩, .inl rfl⟩
  · exact ⟨u, .inr ⟨k, hr⟩, .inr ⟨k, ht⟩⟩

/-- Settles O52: what every operation of a decode keeps, and that taking a fault writes `ERR` and `STATUS` alone. -/
theorem hostHasNoMoveWhileBusy : Obligations.HostHasNoMoveWhileBusy := by
  unfold Obligations.HostHasNoMoveWhileBusy
  intro s t hbusy hstep
  obtain ⟨u, hu, ht⟩ := step_of_busy_eq_next hbusy hstep
  have hk := busyResult_kept hu
  rcases ht with rfl | ⟨k, rfl⟩ <;> exact ⟨hk.host, hk.cfg, hk.nIn, hk.hdr⟩

/-- Settles O53: what every operation of a decode keeps of the SeedSet. -/
theorem onlyKeyRotationWritesTable : Obligations.OnlyKeyRotationWritesTable := by
  unfold Obligations.OnlyKeyRotationWritesTable
  intro s t hbusy hstep
  obtain ⟨u, hu, ht⟩ := step_of_busy_eq_next hbusy hstep
  have hk := busyResult_kept hu
  rcases ht with rfl | ⟨k, rfl⟩ <;> exact ⟨hk.main, hk.length, hk.fence, hk.table⟩

/-- Settles O54: each load is taken from the head of the host's list, and consecutive bytes read back. -/
theorem loadedContainerReadsBack : Obligations.LoadedContainerReadsBack := by
  unfold Obligations.LoadedContainerReadsBack
  refine ⟨?_, ?_, ?_⟩
  · intro s bytes rest hstatus hhost hlen
    have hstep : step s = .next (({ s with host := rest } : State).loadContainer bytes) := by
      rw [step_of_request hstatus hhost]
      exact if_pos hlen
    refine ⟨_, hstep, ?_, rfl, fun a ha => ?_, fun a => ?_, rfl⟩
    · simpa using Nat.mod_eq_of_lt hlen
    · have : a < Params.headerLen := ha
      simp [Memory.read_ofBytes, this]
    · simp [Memory.read_ofBytes, Params.headerLen]
  · intro s seeds rest hstatus hhost
    exact step_of_request hstatus hhost
  · intro s table rest hstatus hhost
    exact step_of_request hstatus hhost

end Sys2Proof.Proofs
end

section
/-! SUPPORT. The invariant, split into the part that speaks of no phase, what a decode has established when it comes to
a phase, and what holds inside one (spec/10_state.md R51, R60, R76). -/

namespace Sys2Proof.Proofs
open Sys2Proof Sys2Proof.Machine

/-- The part of the invariant that speaks of no phase. -/
structure Sound (s : State) : Prop where
  memories : s.MemoriesWf
  legal : s.cfg.codes.legal
  entries : ∀ c ∈ s.tab, c.2.toNat < 128
  loaded : s.hdr.Covers (min 16 s.nIn.toNat) ∧ s.buf.Covers (s.nIn.toNat - 16)

/-- What a decode has established when it comes to a phase, and keeps from there on. -/
def Entered : Phase → State → Prop
  | .seedchk, s => 16 ≤ s.nIn.toNat ∧ s.payLen.toNat = s.nIn.toNat - 16
  | .s1a, s => seedInvalid s.seeds = false
  | .s2Scan, s => 16 ≤ s.payLen.toNat ∧ s.s2.len.toNat = s.payLen.toNat - 12
  | .s2Xor, s => s.s2.marker.toNat < s.payLen.toNat
  | .s2Perm, s => s.s2.tLen.toNat ≤ s.s2.marker.toNat
  | .glzTab, s =>
    (s.glz.dictBase.toNat + s.glz.ld.toNat ≤ s.payLen.toNat ∧
      s.glz.ovfBase.toNat + s.glz.lo.toNat ≤ s.payLen.toNat) ∧ s.tab.Covers s.ct.tcount.toNat
  | .hdr, _ | .s1b, _ | .s2Tail, _ | .s2Ck, _ | .glzHdr, _ | .glzRun, _ | .finished, _ => True

/-- What holds while the sequencer is in a phase. -/
def Inside : Phase → State → Prop
  | .glzTab, s =>
    s.br.base.toNat + s.br.len.toNat ≤ s.payLen.toNat ∧ s.br.cur ≤ s.br.len ∧ s.br.maskLegal ∧
      s.ct.tcount ≤ s.ct.tlen
  | .glzRun, s =>
    s.glz.tp ≤ s.ct.tcount ∧ s.glz.dp ≤ s.glz.ld ∧ s.glz.lp ≤ s.glz.lo ∧ s.glz.wp ≤ s.expected ∧
      s.out.Covers s.glz.wp.toNat
  | .finished, _ => False
  | .hdr, _ | .seedchk, _ | .s1a, _ | .s1b, _ | .s2Tail, _ | .s2Scan, _ | .s2Xor, _ | .s2Ck, _ | .s2Perm, _
  | .glzHdr, _ => True

theorem rank_injective {p q : Phase} (h : p.rank = q.rank) : p = q := by
  cases p <;> cases q <;> simp_all [Phase.rank]

theorem sound_of_inv {s : State} (h : s.Inv) : Sound s := ⟨h.memories, h.legal, h.entries, h.loaded⟩

/-- The invariant of a machine that decodes. -/
theorem inv_iff_of_busy {s : State} (hb : s.status = .busy) :
    s.Inv ↔ Sound s ∧ s.err = 0 ∧ (∀ q : Phase, q.rank ≤ s.phase.rank → Entered q s) ∧ Inside s.phase s := by
  constructor
  · intro h
    refine ⟨sound_of_inv h, ?_, fun q hq => ?_, ?_⟩
    · simpa [hb] using h.codes
    · cases q with
      | seedchk => exact h.payload ⟨hb, hq⟩
      | s1a => exact h.seeds ⟨hb, hq⟩
      | s2Scan => exact h.tail ⟨hb, hq⟩
      | s2Xor => exact h.marker ⟨hb, hq⟩
      | s2Perm => exact h.truncated ⟨hb, hq⟩
      | glzTab => exact ⟨h.streams ⟨hb, hq⟩, h.table ⟨hb, hq⟩⟩
      | _ => trivial
    · cases hp : s.phase with
      | glzTab => exact h.reader hb hp
      | glzRun => exact h.cursors hb hp
      | finished => exact h.active hb hp
      | _ => trivial
  · rintro ⟨hs, herr, hent, hin⟩
    exact
      { memories := hs.memories
        legal := hs.legal
        codes := by simpa [hb] using herr
        entries := hs.entries
        loaded := hs.loaded
        active := fun _ hp => by rw [hp] at hin; exact hin
        payload := fun h => hent .seedchk h.2
        seeds := fun h => hent .s1a h.2
        tail := fun h => hent .s2Scan h.2
        marker := fun h => hent .s2Xor h.2
        truncated := fun h => hent .s2Perm h.2
        streams := fun h => (hent .glzTab h.2).1
        table := fun h => (hent .glzTab h.2).2
        reader := fun _ hp => by rw [hp] at hin; exact hin
        cursors := fun _ hp => by rw [hp] at hin; exact hin
        output := fun h => by rw [hb] at h; cases h }

/-- The invariant of a machine that does not decode. -/
theorem inv_of_not_busy {s : State} (hb : s.status ≠ .busy) (hs : Sound s)
    (hcodes : if s.status = .failed then s.err ∈ s.cfg.codes.all else s.err = 0)
    (hout : s.status = .done → s.out.Covers s.expected.toNat) : s.Inv where
  memories := hs.memories
  legal := hs.legal
  codes := hcodes
  entries := hs.entries
  loaded := hs.loaded
  active h := absurd h hb
  payload h := absurd h.1 hb
  seeds h := absurd h.1 hb
  tail h := absurd h.1 hb
  marker h := absurd h.1 hb
  truncated h := absurd h.1 hb
  streams h := absurd h.1 hb
  table h := absurd h.1 hb
  reader h := absurd h hb
  cursors h := absurd h hb
  output := hout

theorem sound_of_kept {ph : Phase} {s t : State} (hs : Sound s) (h : Kept ph s t) : Sound t where
  memories :=
    { hdr := by rw [h.hdr]; exact hs.memories.hdr
      buf := h.buf_wf hs.memories.buf
      tab := h.tab_wf hs.memories.tab
      out := h.out_wf hs.memories.out }
  legal := by rw [h.cfg]; exact hs.legal
  entries := h.entries hs.entries
  loaded := by
    rw [h.hdr, h.nIn]
    exact ⟨hs.loaded.1, h.buf_covers _ hs.loaded.2⟩

theorem code_mem_all (c : ErrCodes) (k : ErrKind) : k.code c ∈ c.all := by
  cases k <;> simp [ErrKind.code, ErrCodes.all]

/-- A fault taken keeps the invariant, whatever the operation had done before it raised (R301, R302). -/
theorem inv_raise {s : State} (hs : Sound s) (k : ErrKind) : (s.raise k).Inv :=
  inv_of_not_busy (by simp) ⟨⟨hs.memories.hdr, hs.memories.buf, hs.memories.tab, hs.memories.out⟩, hs.legal,
    hs.entries, hs.loaded⟩ (by simpa using code_mem_all _ k) (by simp)

/-- The invariant where a decode stays in its phase or goes on to the next one. -/
theorem inv_advance {s t : State} (h : s.Inv) (hb : s.status = .busy) (hk : Kept s.phase s t)
    (hstatus : t.status = s.status) (hphase : t.phase = s.phase ∨ t.phase.rank = s.phase.rank + 1)
    (hold : ∀ q : Phase, q.rank ≤ s.phase.rank → Entered q s → Entered q t) (hnew : Entered t.phase t)
    (hin : Inside t.phase t) : t.Inv := by
  obtain ⟨hs, herr, hent, _⟩ := (inv_iff_of_busy hb).mp h
  refine (inv_iff_of_busy (hstatus.trans hb)).mpr
    ⟨sound_of_kept hs hk, hk.err.trans herr, fun q hq => ?_, hin⟩
  by_cases hle : q.rank ≤ s.phase.rank
  · exact hold q hle (hent q hle)
  · have hrank : q.rank = t.phase.rank := by
      rcases hphase with hstay | hnext
      · exact absurd (hstay ▸ hq) hle
      · omega
    exact rank_injective hrank ▸ hnew

/-- What a decode has established does not speak of the registers that the loops of a phase write. -/
theorem entered_of_eq {q : Phase} {s t : State}
    (h : t =
      { s with
        free := t.free, status := t.status, err := t.err, phase := t.phase
        seeds := { s.seeds with table := t.seeds.table }, prng := t.prng, pe := t.pe
        s2 :=
          { s.s2 with idx := t.s2.idx, fudge := t.s2.fudge, count := t.s2.count, cx := t.s2.cx, cs := t.s2.cs }
        br := t.br, ct := { s.ct with codeLen := t.ct.codeLen }
        glz := { s.glz with tp := t.glz.tp, dp := t.glz.dp, lp := t.glz.lp, wp := t.glz.wp }
        buf := t.buf, pool := t.pool, ord := t.ord, out := t.out })
    (hq : Entered q s) : Entered q t := by
  rw [h]
  cases q <;> exact hq

/-- Settles O56: the memories are empty, and power-on is no decode. -/
theorem invariantHoldsAtReset : Obligations.InvariantHoldsAtReset := by
  unfold Obligations.InvariantHoldsAtReset
  refine inv_of_not_busy (by decide) ⟨⟨?_, ?_, ?_, ?_⟩, errCodes_legal, ?_, ?_⟩ (by decide)
    (fun h => absurd h (by decide))
  · exact List.Pairwise.nil
  · exact List.Pairwise.nil
  · exact List.Pairwise.nil
  · exact List.Pairwise.nil
  · intro c hc
    cases hc
  · exact ⟨fun a ha => absurd ha (Nat.not_lt_zero a), fun a ha => absurd ha (Nat.not_lt_zero a)⟩

end Sys2Proof.Proofs
end

section
/-! SUPPORT. The operations of a decode do not stop the model (spec/10_state.md R60, spec/20_memory.md R76): each goes
on, with what its callers need of the state it leaves, or raises an error kind. -/

namespace Sys2Proof.Proofs
open Sys2Proof Sys2Proof.Machine

/-- An operation goes on with `P`, or raises an error kind; it does not stop the model. -/
inductive Meets {α : Type} (P : α → State → Prop) : Result α → Prop where
  | ok {a : α} {t : State} (h : P a t) : Meets P (.ok a t)
  | raised (k : ErrKind) (t : State) : Meets P (.raised k t)

section
variable {α β : Type} {P : α → State → Prop} {Q : β → State → Prop} {r : Result α} {f : α → State → Result β}

theorem Meets.andThen (h : Meets P r) (hf : ∀ a t, P a t → Meets Q (f a t)) : Meets Q (r.andThen f) := by
  cases h with
  | ok h => exact hf _ _ h
  | raised k t => exact .raised k t

theorem Meets.mono {P' : α → State → Prop} (h : Meets P r) (hp : ∀ a t, r = .ok a t → P a t → P' a t) :
    Meets P' r := by
  cases h with
  | ok h => exact .ok (hp _ _ rfl h)
  | raised k t => exact .raised k t
end

/-! ## `BUF` and `HDR` -/

/-- The first `n` bytes of `BUF` exist and are written. -/
def Holds (n : Nat) (s : State) : Prop := n ≤ s.payLen.toNat ∧ s.buf.Covers n

section
variable {n : Nat} {s : State}

theorem Holds.bufAt (h : Holds n s) {a : Nat} (ha : a < n) : ∃ v, s.bufAt a = some v := by
  obtain ⟨v, hv⟩ := Option.isSome_iff_exists.mp (h.2 a ha)
  exact ⟨v, by rw [State.bufAt, if_pos (Nat.lt_of_lt_of_le ha h.1), hv]⟩

theorem Holds.setBuf (h : Holds n s) (a : Nat) (v : Byte) : Holds n (s.setBuf a v) := ⟨h.1, h.2.write a v⟩

theorem Holds.setPrng (h : Holds n s) (p : Prng) : Holds n (s.setPrng p) := ⟨h.1, h.2⟩

theorem read32_isSome {at' : Nat → Option Byte} {a : Nat} (h : ∀ j, j < 4 → ∃ v, at' (a + j) = some v) :
    ∃ w, read32 at' a = some w := by
  obtain ⟨b0, h0⟩ := h 0 (by decide)
  obtain ⟨b1, h1⟩ := h 1 (by decide)
  obtain ⟨b2, h2⟩ := h 2 (by decide)
  obtain ⟨b3, h3⟩ := h 3 (by decide)
  exact ⟨_, read32_eq_some.mpr ⟨b0, b1, b2, b3, h0, h1, h2, h3, rfl⟩⟩

theorem readBuf_meets (h : Holds n s) {a : Nat} (ha : a < n) : Meets (fun _ t => t = s) (readBuf a s) := by
  obtain ⟨v, hv⟩ := h.bufAt ha
  rw [readBuf_eq_ok.mpr ⟨hv, rfl⟩]
  exact .ok rfl

theorem writeBuf_meets (h : Holds n s) {a : Nat} (ha : a < n) (v : Byte) :
    Meets (fun _ t => t = s.setBuf a v) (writeBuf a v s) := by
  rw [writeBuf_eq_ok.mpr ⟨Nat.lt_of_lt_of_le ha h.1, rfl⟩]
  exact .ok rfl

theorem readBuf32_meets (h : Holds n s) {a : Nat} (ha : a + 4 ≤ n) :
    Meets (fun _ t => t = s) (readBuf32 a s) := by
  obtain ⟨w, hw⟩ := read32_isSome (at' := s.bufAt) (a := a) fun j hj => h.bufAt (by omega)
  rw [readBuf32_eq_ok.mpr ⟨hw, rfl⟩]
  exact .ok rfl

theorem readHdr32_meets (h : s.hdr.Covers n) {a : Nat} (ha : a + 4 ≤ n) :
    Meets (fun _ t => t = s) (readHdr32 a s) := by
  obtain ⟨w, hw⟩ := read32_isSome (at' := s.hdr.read) (a := a)
    fun j hj => Option.isSome_iff_exists.mp (h _ (by omega))
  rw [readHdr32_eq_ok.mpr ⟨hw, rfl⟩]
  exact .ok rfl

/-! ## The Permutation Engine -/

theorem compact_length {pool : List Nat} {x remaining : Nat} (hx : x < remaining) (hr : remaining ≤ pool.length) :
    (compact pool x remaining).length = pool.length := by
  simp only [compact, List.length_append, List.length_take, List.length_drop]
  omega

/-- A pool of enough entries gives an order array of the length asked for (R154). -/
theorem drawOrder_eq_some {r : Nat} (p : Prng) {pool : List Nat} (h : r ≤ pool.length) :
    ∃ ord pool' p', drawOrder r p pool = some (ord, pool', p') ∧ ord.length = r := by
  induction r generalizing p pool with
  | zero => exact ⟨[], pool, p, rfl, rfl⟩
  | succ r ih =>
    have hx : p.draw15.1.toNat % (r + 1) < r + 1 := Nat.mod_lt _ (Nat.succ_pos r)
    have hget := List.getElem?_eq_getElem (Nat.lt_of_lt_of_le hx h)
    obtain ⟨ord, pool', p', hd, hlen⟩ := ih p.draw15.2
      (pool := compact pool (p.draw15.1.toNat % (r + 1)) (r + 1)) (by rw [compact_length hx h]; omega)
    exact ⟨_, pool', p', by simp only [drawOrder, hget, hd]; rfl, by simp [hlen]⟩

theorem buildOrder_meets (k : Nat) (h : Holds n s) :
    Meets (fun _ t => Holds n t ∧ t.ord.length = k) (buildOrder k s) := by
  obtain ⟨ord, pool, p, hd, hlen⟩ := drawOrder_eq_some s.prng (pool := List.range k) (r := k) (by simp)
  rw [buildOrder, hd]
  exact .ok ⟨h, hlen⟩

theorem swapBits_meets (h : Holds n s) {start rem : Nat} (hn : start + rem ≤ n) (e0 e1 : Nat) :
    Meets (fun _ t => Holds n t ∧ t.ord = s.ord) (swapBits start rem e0 e1 s) := by
  unfold swapBits
  split
  · exact .raised _ _
  · have h0 : start + e0 / 8 < n := by omega
    have h1 : start + e1 / 8 < n := by omega
    refine (readBuf_meets h h0).andThen ?_
    rintro v0 t rfl
    refine (readBuf_meets h h1).andThen ?_
    rintro v1 t rfl
    split
    · exact .ok ⟨h, rfl⟩
    · refine (writeBuf_meets h h0 _).andThen ?_
      rintro _ t rfl
      refine (readBuf_meets (h.setBuf _ _) h1).andThen ?_
      rintro v1 t rfl
      exact (writeBuf_meets (h.setBuf _ _) h1 _).mono fun _ t _ ht => ht ▸ ⟨(h.setBuf _ _).setBuf _ _, rfl⟩

theorem walkFrom_meets (h : Holds n s) {start rem pairs i : Nat} (hn : start + rem ≤ n)
    (hi : i + 2 * pairs ≤ s.ord.length) : Meets (fun _ t => Holds n t) (walkFrom start rem pairs i s) := by
  induction pairs generalizing i s with
  | zero => exact .ok h
  | succ pairs ih =>
    have h0 : s.ord[i]? = some s.ord[i] := List.getElem?_eq_getElem (by omega)
    have h1 : s.ord[i + 1]? = some s.ord[i + 1] := List.getElem?_eq_getElem (by omega)
    simp only [walkFrom, h0, h1]
    refine Meets.andThen (swapBits_meets (by exact h) hn _ _) fun _ t ⟨ht, hord⟩ => ih ht ?_
    rw [hord]
    show i + 2 + 2 * pairs ≤ s.ord.length
    omega

theorem permuteSlice_meets (h : Holds n s) {base total slice pos : Nat} (hpos : pos < total) (hn : base + total ≤ n) :
    Meets (fun _ t => Holds n t) (permuteSlice base total slice pos s) := by
  refine Meets.andThen (buildOrder_meets (n := n) (slice * 8) (by exact h)) fun _ t ⟨ht, hlen⟩ => ?_
  have hcount := participating_le t.cfg.partialLimit slice (total - pos)
  refine walkFrom_meets (by exact ht) (by omega) ?_
  show 0 + 2 * (participating t.cfg.partialLimit slice (total - pos) / 2) ≤ t.ord.length
  omega

theorem sliceLoop_meets (h : Holds n s) {base total slice fuel pos : Nat} (hn : base + total ≤ n) :
    Meets (fun _ t => Holds n t) (sliceLoop base total slice fuel pos s) := by
  induction fuel generalizing pos s with
  | zero => exact .ok h
  | succ fuel ih =>
    unfold sliceLoop
    split
    · exact .ok h
    · exact (permuteSlice_meets h (by omega) hn).andThen fun _ t ht => ih ht

/-- `permute_chunks` on a region inside the payload does not stop the model, and changes no more than the engine may. -/
theorem permuteChunks_meets (h : Holds n s) {base total : Nat} (slice : Nat) (m a : Word) (hn : base + total ≤ n) :
    Meets (fun _ t => PermFrame s t) (permuteChunks base total slice m a s) := by
  have key : Meets (fun _ _ => True) (permuteChunks base total slice m a s) := by
    unfold permuteChunks
    simp only
    split
    · exact .raised _ _
    · split
      · exact .raised _ _
      · exact Meets.mono (sliceLoop_meets (n := n) (by exact h) hn) fun _ _ _ _ => trivial
  exact key.mono fun _ t ht _ => permuteChunks_leaves (.inl ⟨_, ht⟩)

/-! ## The loops of Stage-1 and Stage-2 -/

theorem passBWord_meets (h : Holds n s) {k : Nat} (hk : 2 * k + 1 < n) :
    Meets (fun _ t => Holds n t) (passBWord k s) := by
  refine (readBuf_meets h (by omega)).andThen ?_
  rintro b0 t rfl
  refine (readBuf_meets h hk).andThen ?_
  rintro b1 t rfl
  have hu := h.setPrng t.prng.draw15.2
  refine (writeBuf_meets hu (by omega) _).andThen ?_
  rintro _ u rfl
  exact (writeBuf_meets (hu.setBuf _ _) hk _).mono fun _ u _ hw => hw ▸ (hu.setBuf _ _).setBuf _ _

theorem passBFrom_meets (h : Holds n s) {words k : Nat} (hk : 2 * (k + words) ≤ n) :
    Meets (fun _ t => Holds n t) (passBFrom words k s) := by
  induction words generalizing k s with
  | zero => exact .ok h
  | succ words ih => exact (passBWord_meets h (k := k) (by omega)).andThen fun _ t ht => ih (by exact ht) (by omega)

/-- The scan finds an offset below the one it starts from (R183). -/
theorem scanBelow_meets (h : Holds n s) {i : Nat} (hi : i ≤ n) :
    Meets (fun a t => t = s ∧ a < i) (scanBelow i s) := by
  induction i with
  | zero => exact .raised _ _
  | succ i ih =>
    refine (readBuf_meets h (by omega)).andThen ?_
    rintro b t rfl
    split
    · exact .ok ⟨rfl, Nat.lt_succ_self i⟩
    · exact (ih (by omega)).mono fun a t _ ⟨ht, ha⟩ => ⟨ht, Nat.lt_succ_of_lt ha⟩

theorem Holds.setS2 (h : Holds n s) (r : Stage2Regs) : Holds n { s with s2 := r } := ⟨h.1, h.2⟩

theorem Holds.rotateIfDue (h : Holds n s) : Holds n (rotateIfDue s) := by
  have hrot := rotateIfDue_xorFrame s
  exact ⟨by rw [hrot.same]; exact h.1, hrot.covers _ h.2⟩

theorem xorByte_meets (h : Holds n s) {i : Nat} (hi : i < n) : Meets (fun _ t => Holds n t) (xorByte i s) := by
  refine (readBuf_meets h hi).andThen ?_
  rintro b t rfl
  have hset := h.setPrng t.prng.draw8.2
  refine (writeBuf_meets hset hi _).andThen ?_
  rintro _ u rfl
  exact .ok ((hset.setBuf _ _).setS2 _).rotateIfDue

theorem xorFrom_meets (h : Holds n s) {bytes i : Nat} (hi : i + bytes ≤ n) :
    Meets (fun _ t => Holds n t) (xorFrom bytes i s) := by
  induction bytes generalizing i s with
  | zero => exact .ok h
  | succ bytes ih => exact (xorByte_meets h (i := i) (by omega)).andThen fun _ t ht => ih (by exact ht) (by omega)

theorem foldFrom_meets (h : Holds n s) {words j : Nat} (hj : 4 * (j + words) ≤ n) :
    Meets (fun _ _ => True) (foldFrom words j s) := by
  induction words generalizing j s with
  | zero => exact .ok trivial
  | succ words ih =>
    refine (readBuf32_meets h (by omega)).andThen ?_
    rintro w t rfl
    exact ih (by exact h) (by omega)

/-! ## The Bitstream Reader -/

/-- The reader is in a legal position inside a region of written bytes (spec/44_bitstream.md R210). -/
structure ReaderIn (s : State) : Prop where
  bytes : Holds s.payLen.toNat s
  region : s.br.base.toNat + s.br.len.toNat ≤ s.payLen.toNat
  cursor : s.br.cur ≤ s.br.len
  mask : s.br.maskLegal

theorem maskLegal_shiftRight {r : Reader} (h : r.maskLegal) :
    r.mask >>> 1 = 0 ∨ ∃ k, k < 8 ∧ r.mask >>> 1 = (1 : Byte) <<< k := by
  have hnext : ∀ k : Fin 7, (1 : Byte) <<< (k.val + 1) >>> 1 = (1 : Byte) <<< k.val := by decide
  rcases h with h | ⟨k, hk, h⟩
  · exact .inl (by rw [h]; rfl)
  · rw [h]
    cases k with
    | zero => exact .inl (by decide)
    | succ k => exact .inr ⟨k, by omega, hnext ⟨k, by omega⟩⟩

theorem ReaderIn.deliver {s : State} (h : ReaderIn s) : Meets (fun _ t => ReaderIn t) (deliverBit s) :=
  .ok ⟨h.bytes, h.region, h.cursor, maskLegal_shiftRight h.mask⟩

theorem readBit_meets (h : ReaderIn s) : Meets (fun _ t => ReaderIn t) (readBit s) := by
  unfold readBit
  split
  · split
    · exact .ok h
    · next hcur =>
      have hlt : s.br.cur.toNat < s.br.len.toNat := BitVec.not_le.mp hcur
      have hregion := h.region
      refine (readBuf_meets h.bytes (by omega)).andThen ?_
      rintro v t rfl
      refine ReaderIn.deliver ⟨h.bytes, h.region, ?_, .inr ⟨7, by decide, rfl⟩⟩
      show t.br.cur + 1 ≤ t.br.len
      bv_omega
  · exact h.deliver

theorem takeBits_meets (h : ReaderIn s) (k : Nat) : Meets (fun _ t => ReaderIn t) (takeBits k s) := by
  induction k generalizing s with
  | zero => exact .ok h
  | succ k ih =>
    refine (readBit_meets h).andThen fun b t ht => ?_
    cases b with
    | none => exact .ok ht
    | some b => exact (ih ht).andThen fun _ u hu => .ok hu

theorem fetchPrefix_meets (h : ReaderIn s) (k : Nat) : Meets (fun _ t => ReaderIn t) (fetchPrefix k s) := by
  induction k generalizing s with
  | zero => exact .ok h
  | succ k ih =>
    refine (readBit_meets h).andThen fun b t ht => ?_
    match b with
    | none => exact .ok ht
    | some true => exact .ok ht
    | some false =>
      have hcount : ReaderIn t.countZero := ⟨ht.bytes, ht.region, ht.cursor, ht.mask⟩
      exact (ih hcount).andThen fun _ u hu => .ok hu

theorem fetchCodewordBits_meets (h : ReaderIn s) : Meets (fun _ t => ReaderIn t) (fetchCodewordBits s) := by
  have hzero : ReaderIn { s with ct := { s.ct with codeLen := 0 } } := ⟨h.bytes, h.region, h.cursor, h.mask⟩
  refine (fetchPrefix_meets hzero _).andThen fun pre t ht => ?_
  cases pre with
  | none => exact .ok ht
  | some pre =>
    simp only
    split
    · exact .ok ht
    · exact (takeBits_meets ht _).andThen fun _ u hu => .ok hu

/-! ## The stream accesses of the Glaze loop -/

/-- No cursor of the Glaze loop but `TP` is past its bound, the streams are written, and so is `OUT` below `WP`
(spec/46_glaze.md R246 to R250). -/
structure CopyReady (s : State) : Prop where
  bytes : Holds s.payLen.toNat s
  dict : s.glz.dictBase.toNat + s.glz.ld.toNat ≤ s.payLen.toNat
  ovf : s.glz.ovfBase.toNat + s.glz.lo.toNat ≤ s.payLen.toNat
  dp : s.glz.dp ≤ s.glz.ld
  lp : s.glz.lp ≤ s.glz.lo
  wp : s.glz.wp ≤ s.expected
  out : s.out.Covers s.glz.wp.toNat

theorem le_of_lt_add_one {a b : Word} (h : a < b) : a + 1 ≤ b := by bv_omega

theorem toNat_add_one_of_lt {a b : Word} (h : a < b) : (a + 1).toNat = a.toNat + 1 := by bv_omega

theorem fetchDict_meets (h : CopyReady s) : Meets (fun _ t => CopyReady t) (fetchDict s) := by
  unfold fetchDict
  split
  · exact .raised _ _
  · next hlt =>
    have hdp : s.glz.dp.toNat < s.glz.ld.toNat := BitVec.not_le.mp hlt
    have hdict := h.dict
    refine (readBuf_meets h.bytes (by unfold State.dictAddr; omega)).andThen ?_
    rintro v t rfl
    exact .ok ⟨h.bytes, h.dict, h.ovf, le_of_lt_add_one hdp, h.lp, h.wp, h.out⟩

theorem fetchOvf_meets (h : CopyReady s) : Meets (fun _ t => CopyReady t) (fetchOvf s) := by
  unfold fetchOvf
  split
  · exact .raised _ _
  · next hlt =>
    have hlp : s.glz.lp.toNat < s.glz.lo.toNat := BitVec.not_le.mp hlt
    have hovf := h.ovf
    refine (readBuf_meets h.bytes (by unfold State.ovfAddr; omega)).andThen ?_
    rintro v t rfl
    exact .ok ⟨h.bytes, h.dict, h.ovf, h.dp, le_of_lt_add_one hlp, h.wp, h.out⟩

theorem put_meets (h : CopyReady s) (b : Byte) : Meets (fun _ t => CopyReady t) (put b s) := by
  unfold put
  split
  · exact .raised _ _
  · next hlt =>
    have hwp : s.glz.wp < s.expected := BitVec.not_le.mp hlt
    refine .ok ⟨h.bytes, h.dict, h.ovf, h.dp, h.lp, le_of_lt_add_one hwp, ?_⟩
    rw [State.pushOut_glz_wp, toNat_add_one_of_lt hwp]
    exact h.out.write_next b

theorem backref_meets (h : CopyReady s) (dist len : Nat) : Meets (fun _ t => CopyReady t) (backref dist len s) := by
  induction len generalizing s with
  | zero => exact .ok h
  | succ len ih =>
    unfold backref
    split
    · exact .raised _ _
    · obtain ⟨b, hb⟩ := Option.isSome_iff_exists.mp (h.out (s.glz.wp.toNat - dist) (by omega))
      simp only [hb]
      exact (put_meets h b).andThen fun _ t ht => ih ht

theorem litrun_meets (h : CopyReady s) (count : Nat) : Meets (fun _ t => CopyReady t) (litrun count s) := by
  induction count generalizing s with
  | zero => exact .ok h
  | succ count ih =>
    exact ((fetchDict_meets h).andThen fun b t ht => put_meets ht b).andThen fun _ t ht => ih ht

theorem copyResult_meets (h : CopyReady s) (i : Instr) : Meets (fun _ t => CopyReady t) (copyResult i s) := by
  cases i with
  | rep _ | cpy _ _ => exact backref_meets h _ _
  | run _ => exact litrun_meets h _
  | lit => exact (fetchDict_meets h).andThen fun b t ht => put_meets ht b
  | cpyd _ | cpyw _ _ => exact (fetchDict_meets h).andThen fun _ t ht => backref_meets ht _ _
  | runx => exact (fetchOvf_meets h).andThen fun _ t ht => litrun_meets ht _
  | _ => exact .ok h

/-! ## The table bytes of the Glaze loop -/

/-- `k` bytes of `TAB` have been fetched since `s`, all of them below `TCOUNT` (R247). -/
structure TabFetched (k : Nat) (s t : State) : Prop where
  tab : t.tab = s.tab
  ct : t.ct = s.ct
  tp : t.glz.tp.toNat = s.glz.tp.toNat + k
  bound : t.glz.tp ≤ t.ct.tcount

theorem TabFetched.trans {k l : Nat} {t u : State} (h : TabFetched k s t) (h' : TabFetched l t u) :
    TabFetched (k + l) s u :=
  ⟨h'.tab.trans h.tab, h'.ct.trans h.ct, by rw [h'.tp, h.tp, Nat.add_assoc], h'.bound⟩

theorem fetchTab_meets (h : s.tab.Covers s.ct.tcount.toNat) : Meets (fun _ t => TabFetched 1 s t) (fetchTab s) := by
  unfold fetchTab
  split
  · exact .raised _ _
  · next hlt =>
    have htp : s.glz.tp < s.ct.tcount := BitVec.not_le.mp hlt
    obtain ⟨v, hv⟩ := Option.isSome_iff_exists.mp (h s.glz.tp.toNat htp)
    simp only [hv]
    exact .ok ⟨rfl, rfl, toNat_add_one_of_lt htp, le_of_lt_add_one htp⟩

theorem TabFetched.covers {k : Nat} {t : State} (h : TabFetched k s t) (hs : s.tab.Covers s.ct.tcount.toNat) :
    t.tab.Covers t.ct.tcount.toNat := by
  rwa [h.tab, h.ct]

theorem fetchOperands_meets (h : s.tab.Covers s.ct.tcount.toNat) (htp : s.glz.tp ≤ s.ct.tcount) (k : Nat) :
    Meets (fun vs t => TabFetched vs.length s t) (fetchOperands k s) := by
  induction k generalizing s with
  | zero => exact .ok ⟨rfl, rfl, rfl, htp⟩
  | succ k ih =>
    refine (fetchTab_meets h).andThen fun v t ht => ?_
    refine (ih (ht.covers h) ht.bound).andThen fun vs u hu => .ok ?_
    rw [List.length_cons, Nat.add_comm]
    exact ht.trans hu

/-- The bytes of the next Glaze instruction all lie below `TCOUNT`. -/
theorem fetchGlazeBytes_meets (h : s.tab.Covers s.ct.tcount.toNat) :
    Meets (fun bytes _ => s.glz.tp.toNat + bytes.length ≤ s.ct.tcount.toNat) (fetchGlazeBytes s) := by
  refine (fetchTab_meets h).andThen fun op t ht => ?_
  refine (fetchOperands_meets (ht.covers h) ht.bound _).andThen fun vs u hu => .ok ?_
  have hall := ht.trans hu
  have hle : u.glz.tp.toNat ≤ u.ct.tcount.toNat := hall.bound
  rw [hall.ct, hall.tp] at hle
  rw [List.length_cons]
  omega
end

end Sys2Proof.Proofs
end

section
/-! SUPPORT. Each phase keeps the invariant and does not stop the model (spec/47_orchestrator.md R285). -/

namespace Sys2Proof.Proofs
open Sys2Proof Sys2Proof.Machine

section
variable {s : State}

/-- From the header check on, the payload is in `BUF`. -/
theorem holds_payload (h : s.Inv) (hb : s.status = .busy) (hr : Phase.seedchk.rank ≤ s.phase.rank) :
    Holds s.payLen.toNat s := by
  obtain ⟨_, hlen⟩ := h.payload ⟨hb, hr⟩
  exact ⟨Nat.le_refl _, hlen ▸ h.loaded.2⟩

theorem checkHeader_meets (h : s.Inv) (hb : s.status = .busy) (hp : s.phase = .hdr) :
    Meets (fun _ t => t.Inv) (checkHeader s) := by
  unfold checkHeader
  split
  · exact .raised _ _
  split
  · exact .raised _ _
  next hlen =>
    have h16 : 16 ≤ s.nIn.toNat := Nat.le_of_not_lt hlen
    have hcov : s.hdr.Covers 16 := Nat.min_eq_left h16 ▸ h.loaded.1
    refine (readHdr32_meets hcov (by decide)).andThen ?_
    rintro tag _ rfl
    split
    · exact .raised _ _
    refine (readHdr32_meets hcov (by decide)).andThen ?_
    rintro size t rfl
    refine .ok (inv_advance h hb (.registers rfl) rfl (.inr (by rw [hp]; rfl)) (fun q hq _ => ?_) ⟨h16, ?_⟩ trivial)
    · rw [hp] at hq
      cases q with
      | hdr => trivial
      | _ => exact absurd hq (by decide)
    · show (t.nIn - 16).toNat = t.nIn.toNat - 16
      exact BitVec.toNat_sub_of_le h16

theorem checkSeeds_meets (h : s.Inv) (hb : s.status = .busy) (hp : s.phase = .seedchk) :
    Meets (fun _ t => t.Inv) (checkSeeds s) := by
  unfold checkSeeds
  split
  · exact .raised _ _
  · next hseeds =>
    exact .ok (inv_advance h hb (.registers rfl) rfl (.inr (by rw [hp]; rfl)) (fun _ _ => entered_of_eq rfl)
      (Bool.eq_false_iff.mpr hseeds) trivial)

theorem passA_meets (h : s.Inv) (hb : s.status = .busy) (hp : s.phase = .s1a) :
    Meets (fun _ t => t.Inv) (passA s) := by
  have hbuf := holds_payload h hb (by rw [hp]; decide)
  refine (permuteChunks_meets hbuf _ _ _ (by omega)).andThen fun _ u hu => .ok ?_
  exact inv_advance h hb ((kept_of_permFrame hu).trans (.registers rfl)) (by rw [hu.same]; rfl)
    (.inr (by rw [hp]; rfl)) (fun _ _ => entered_of_eq (by rw [hu.same]; rfl)) trivial trivial

theorem passB_meets (h : s.Inv) (hb : s.status = .busy) (hp : s.phase = .s1b) :
    Meets (fun _ t => t.Inv) (passB s) := by
  have hbuf := (holds_payload h hb (by rw [hp]; decide)).setPrng (Prng.seed Params.const s.seeds.main.e1)
  have hloop := passBFrom_meets hbuf (words := s.payLen.toNat / 2) (k := 0) (by omega)
  refine (hloop.mono fun _ u hok _ => (WordFrame.setPrng _ s).trans (passBFrom_leaves (.inl ⟨_, hok⟩))).andThen
    fun _ u (hu : WordFrame s u) => .ok ?_
  exact inv_advance h hb ((kept_of_wordFrame hu).trans (.registers rfl)) (by rw [hu.same]; rfl)
    (.inr (by rw [hp]; rfl)) (fun _ _ => entered_of_eq (by rw [hu.same]; rfl)) trivial trivial

theorem readTail_meets (h : s.Inv) (hb : s.status = .busy) (hp : s.phase = .s2Tail) :
    Meets (fun _ t => t.Inv) (readTail s) := by
  have hbuf := holds_payload h hb (by rw [hp]; decide)
  unfold readTail
  simp only
  split
  · exact .raised _ _
  next hlen =>
    have h16 : 16 ≤ s.payLen.toNat := Nat.le_of_not_lt fun hlt => hlen (.inr hlt)
    refine Meets.andThen (readBuf32_meets (n := s.payLen.toNat) (by exact hbuf) (by omega)) ?_
    rintro aux _ rfl
    refine Meets.andThen (readBuf32_meets (n := s.payLen.toNat) (by exact hbuf) (by omega)) ?_
    rintro high _ rfl
    refine Meets.andThen (readBuf32_meets (n := s.payLen.toNat) (by exact hbuf) (by omega)) ?_
    rintro low _ rfl
    refine .ok (inv_advance h hb (.registers rfl) rfl (.inr (by rw [hp]; rfl)) (fun q hq hold => ?_) ⟨h16, ?_⟩ trivial)
    · rw [hp] at hq
      cases q with
      | hdr | seedchk | s1a | s1b | s2Tail => exact hold
      | _ => exact absurd hq (by decide)
    · show (BitVec.ofNat 32 (s.payLen.toNat - 12)).toNat = s.payLen.toNat - 12
      rw [BitVec.toNat_ofNat]
      omega

theorem scanSentinel_meets (h : s.Inv) (hb : s.status = .busy) (hp : s.phase = .s2Scan) :
    Meets (fun _ t => t.Inv) (scanSentinel s) := by
  have hbuf := holds_payload h hb (by rw [hp]; decide)
  obtain ⟨h16, hlen⟩ := h.tail ⟨hb, by rw [hp]⟩
  refine (scanBelow_meets hbuf (by omega)).andThen ?_
  rintro i t ⟨rfl, hi⟩
  refine .ok (inv_advance h hb (.registers rfl) rfl (.inr (by rw [hp]; rfl)) (fun q hq hold => ?_) ?_ trivial)
  · rw [hp] at hq
    cases q with
    | hdr | seedchk | s1a | s1b | s2Tail | s2Scan => exact hold
    | _ => exact absurd hq (by decide)
  · show (BitVec.ofNat 32 i).toNat < t.payLen.toNat
    rw [BitVec.toNat_ofNat]
    omega

theorem xorDecode_meets (h : s.Inv) (hb : s.status = .busy) (hp : s.phase = .s2Xor) :
    Meets (fun _ t => t.Inv) (xorDecode s) := by
  have hbuf : Holds s.payLen.toNat s.keySeed := holds_payload h hb (by rw [hp]; decide)
  have hmarker := h.marker ⟨hb, by rw [hp]⟩
  have hloop := xorFrom_meets hbuf (bytes := s.s2.marker.toNat) (i := 0) (by omega)
  refine (hloop.mono fun _ u hok _ => xorFrom_leaves (.inl ⟨_, hok⟩)).andThen
    fun _ u (hu : XorFrame s.keySeed u) => .ok ?_
  have hkept : Kept s.phase s u := hp ▸ Kept.trans (.registers rfl) (kept_of_xorFrame hu)
  exact inv_advance h hb (hkept.trans (.registers rfl)) (by rw [hu.same]; rfl)
    (.inr (by rw [hp]; rfl)) (fun _ _ => entered_of_eq (by rw [hu.same]; rfl)) trivial trivial

/-- The state in which step 4 of Stage-2 folds the first word (spec/43_stage2.md R190 to R192). -/
def foldSeed (s : State) : State :=
  { s with
    s2 :=
      { s.s2 with
        tLen := BitVec.ofNat 32 (truncatedLen s.s2.marker), cx := s.cfg.ckInit.1, cs := s.cfg.ckInit.2 } }

theorem truncatedLen_le (marker : Word) : truncatedLen marker ≤ marker.toNat := Nat.sub_le _ _

theorem checksum_meets (h : s.Inv) (hb : s.status = .busy) (hp : s.phase = .s2Ck) :
    Meets (fun _ t => t.Inv) (checksum s) := by
  have hbuf := holds_payload h hb (by rw [hp]; decide)
  have hmarker := h.marker ⟨hb, by rw [hp]; decide⟩
  have htrunc := truncatedLen_le s.s2.marker
  refine (writeBuf_meets hbuf hmarker 0).andThen ?_
  rintro _ t rfl
  have hfold : Holds s.payLen.toNat (foldSeed (s.setBuf s.s2.marker.toNat 0)) := hbuf.setBuf _ _
  have hloop := foldFrom_meets hfold (words := truncatedLen s.s2.marker / 4) (j := 0) (by omega)
  refine (hloop.mono fun _ u hok _ => foldFrom_leaves (.inl ⟨_, hok⟩)).andThen fun _ u hu => ?_
  split
  · exact .raised _ _
  · have hkept : Kept s.phase s u :=
      (kept_of_wordFrame (WordFrame.setBuf _ _ s)).trans (.registers (by rw [hu]; rfl))
    refine .ok (inv_advance h hb (hkept.trans (.registers rfl)) (by rw [hu]; rfl) (.inr (by rw [hp]; rfl))
      (fun q hq hold => ?_) ?_ trivial)
    · rw [hp] at hq
      rw [hu]
      cases q with
      | s2Perm | glzTab => exact absurd hq (by decide)
      | _ => exact hold
    · show u.s2.tLen.toNat ≤ u.s2.marker.toNat
      rw [hu]
      show (BitVec.ofNat 32 (truncatedLen s.s2.marker)).toNat ≤ s.s2.marker.toNat
      rw [BitVec.toNat_ofNat]
      exact Nat.le_trans (Nat.mod_le _ _) htrunc

theorem permuteLeading_meets (h : s.Inv) (hb : s.status = .busy) (hp : s.phase = .s2Perm) :
    Meets (fun _ t => t.Inv) (permuteLeading s) := by
  have hbuf := holds_payload h hb (by rw [hp]; decide)
  have hmarker := h.marker ⟨hb, by rw [hp]; decide⟩
  have htrunc := h.truncated ⟨hb, by rw [hp]⟩
  refine (permuteChunks_meets hbuf _ _ _ (by omega)).andThen fun _ u hu => .ok ?_
  exact inv_advance h hb ((kept_of_permFrame hu).trans (.registers rfl)) (by rw [hu.same]; rfl)
    (.inr (by rw [hp]; rfl)) (fun _ _ => entered_of_eq (by rw [hu.same]; rfl)) trivial trivial

/-- The length of a region is read where it fits (spec/46_glaze.md R243). -/
theorem lengthPrefix_meets {n : Nat} (h : Holds n s) (hn : s.s2.tLen.toNat ≤ n) {pos : Nat} :
    Meets (fun _ t => t = s ∧ pos + 4 ≤ s.s2.tLen.toNat) (lengthPrefix pos s) := by
  unfold lengthPrefix
  split
  · exact .raised _ _
  · exact (readBuf32_meets h (by omega)).mono fun _ t _ ht => ⟨ht, by omega⟩

theorem zero_le_word (a : Word) : 0 ≤ a := Nat.zero_le a.toNat

theorem toNat_ofNat_of_lt {a : Nat} (h : a < 4294967296) : (BitVec.ofNat 32 a : Word).toNat = a := by
  rw [BitVec.toNat_ofNat]
  exact Nat.mod_eq_of_lt h

/-- The table set-up (spec/45_code_table.md R220), with the regions inside the payload: the reader stands on the region
behind its first 12 bytes and no entry is emitted. -/
theorem openTable_meets {u : State} (h : s.Inv) (hb : s.status = .busy) (hp : s.phase = .glzHdr)
    (hu : u = { s with phase := .glzTab, glz := u.glz }) (hlb : 8 + u.glz.lb.toNat ≤ u.payLen.toNat)
    (hdict : u.glz.dictBase.toNat + u.glz.ld.toNat ≤ u.payLen.toNat)
    (hovf : u.glz.ovfBase.toNat + u.glz.lo.toNat ≤ u.payLen.toNat) : Meets (fun _ t => t.Inv) (openTable u) := by
  have hbuf : Holds u.payLen.toNat u := by
    have := holds_payload h hb (by rw [hp]; decide)
    rw [hu]
    exact this
  unfold openTable
  split
  · exact .raised _ _
  next hlen =>
    refine (readBuf32_meets hbuf (by omega)).andThen ?_
    rintro tlen u rfl
    simp only
    split
    · exact .raised _ _
    · refine .ok (inv_advance h hb (.registers (by rw [hu]; rfl)) (by rw [hu]; rfl) (.inr (by rw [hu, hp]; rfl))
        (fun q hq hold => ?_) ?_ ?_)
      · rw [hp] at hq
        rw [hu]
        cases q with
        | glzTab => exact absurd hq (by decide)
        | _ => exact hold
      · rw [hu] at hdict hovf ⊢
        exact ⟨⟨hdict, hovf⟩, fun a ha => absurd ha (Nat.not_lt_zero a)⟩
      · have hsub : (u.glz.lb - 4).toNat = u.glz.lb.toNat - 4 := BitVec.toNat_sub_of_le (Nat.le_of_not_lt hlen)
        have hin : 12 + (u.glz.lb - 4).toNat ≤ u.payLen.toNat := by omega
        rw [hu] at hin ⊢
        exact ⟨hin, zero_le_word _, .inl rfl, zero_le_word _⟩

theorem parseHeader_meets (h : s.Inv) (hb : s.status = .busy) (hp : s.phase = .glzHdr) :
    Meets (fun _ t => t.Inv) (parseHeader s) := by
  have hbuf := holds_payload h hb (by rw [hp]; decide)
  have hmarker := h.marker ⟨hb, by rw [hp]; decide⟩
  have htrunc := h.truncated ⟨hb, by rw [hp]; decide⟩
  have hlt := s.payLen.isLt
  have hle : s.s2.tLen.toNat ≤ s.payLen.toNat := by omega
  unfold parseHeader
  simp only
  split
  · exact .raised _ _
  refine (readBuf32_meets hbuf (by omega)).andThen ?_
  rintro declared _ rfl
  refine (readBuf32_meets hbuf (by omega)).andThen ?_
  rintro lb s rfl
  split
  · exact .raised _ _
  split
  · exact .raised _ _
  split
  · exact .raised _ _
  refine Meets.andThen (lengthPrefix_meets (n := s.payLen.toNat) (by exact hbuf) (by exact hle)) ?_
  rintro ld _ ⟨rfl, hdict⟩
  split
  · exact .raised _ _
  refine Meets.andThen (lengthPrefix_meets (n := s.payLen.toNat) (by exact hbuf) (by exact hle)) ?_
  rintro lo _ ⟨rfl, hovf⟩
  split
  · exact .raised _ _
  have hdict' : 8 + lb.toNat + 4 ≤ s.s2.tLen.toNat := hdict
  have hovf' : 12 + lb.toNat + ld.toNat + 4 ≤ s.s2.tLen.toNat := hovf
  refine openTable_meets h hb hp rfl ?_ ?_ ?_
  · show 8 + lb.toNat ≤ s.payLen.toNat
    omega
  · show (BitVec.ofNat 32 (12 + lb.toNat)).toNat + ld.toNat ≤ s.payLen.toNat
    rw [toNat_ofNat_of_lt (by omega)]
    omega
  · show (BitVec.ofNat 32 (12 + lb.toNat + ld.toNat + 4)).toNat + lo.toNat ≤ s.payLen.toNat
    rw [toNat_ofNat_of_lt (by omega)]
    omega

/-! ## The two loops of a step each -/

theorem readerIn_of_inv (h : s.Inv) (hb : s.status = .busy) (hp : s.phase = .glzTab) : ReaderIn s := by
  obtain ⟨hregion, hcur, hmask, _⟩ := h.reader hb hp
  exact ⟨holds_payload h hb (by rw [hp]; decide), hregion, hcur, hmask⟩

/-- The end of the Code Table Builder keeps the invariant, whatever the reader and `CODE_LEN` hold (R221, R225). -/
theorem inv_closeTable {u : State} (h : s.Inv) (hb : s.status = .busy) (hp : s.phase = .glzTab)
    (hu : ReaderMoved s u) : u.closeTable.Inv := by
  refine inv_advance h hb (.registers (by rw [hu]; rfl)) (by rw [hu]; rfl) (.inr (by rw [hp]; rfl))
    (fun _ _ => entered_of_eq (by rw [hu]; rfl)) trivial ?_
  exact ⟨zero_le_word _, zero_le_word _, zero_le_word _, zero_le_word _,
    fun a ha => absurd ha (Nat.not_lt_zero a)⟩

/-- A codeword: its entry is one more written cell of `TAB`, or the stream has ended and the table is short. -/
theorem emitEntry_meets (h : s.Inv) (hb : s.status = .busy) (hp : s.phase = .glzTab) (hlt : s.ct.tcount < s.ct.tlen)
    {bits k : Nat} {v : Byte} (hv : v.toNat < 128) : Meets (fun _ t => t.Inv) (emitEntry bits k v s) := by
  have hread := takeBits_meets (readerIn_of_inv h hb hp) bits
  refine (hread.mono fun _ u hok hu => And.intro hu (takeBits_leaves (.inl ⟨_, hok⟩))).andThen
    fun r u ⟨hu, hsame⟩ => ?_
  cases r with
  | none => exact .ok (inv_closeTable h hb hp (by rw [hsame]; rfl))
  | some _ =>
    have hlt' : u.ct.tcount < u.ct.tlen := by rwa [hsame]
    have htable : u.tab.Covers u.ct.tcount.toNat := by
      rw [hsame]
      exact h.table ⟨hb, by rw [hp]⟩
    have hcov : (u.pushTab k v).tab.Covers (u.pushTab k v).ct.tcount.toNat := by
      rw [State.pushTab_ct_tcount, toNat_add_one_of_lt hlt']
      exact htable.write_next v
    have hent : ∀ q, Entered q s → Entered q u := fun q => entered_of_eq (by rw [hsame])
    have hphase : (u.pushTab k v).phase = .glzTab := by rw [hsame]; exact hp
    refine .ok (inv_advance h hb (Kept.trans (.registers (by rw [hsame])) (kept_pushTab hv)) (by rw [hsame]; rfl)
      (.inl (hphase.trans hp.symm)) (fun q _ hold => ?_) ?_ ?_)
    · cases q with
      | glzTab => exact ⟨(hent _ hold).1, hcov⟩
      | _ => exact hent _ hold
    · rw [hphase]
      exact ⟨(hent .glzTab ⟨h.streams ⟨hb, by rw [hp]⟩, h.table ⟨hb, by rw [hp]⟩⟩).1, hcov⟩
    · rw [hphase]
      exact ⟨hu.region, hu.cursor, hu.mask, le_of_lt_add_one hlt'⟩

theorem fetchCodeword_meets (h : s.Inv) (hb : s.status = .busy) (hp : s.phase = .glzTab)
    (hlt : s.ct.tcount < s.ct.tlen) : Meets (fun _ t => t.Inv) (fetchedResult (fetchCodeword s) s) := by
  rw [fetchCodeword_eq_andThen]
  have hbits := fetchCodewordBits_meets (readerIn_of_inv h hb hp)
  refine (hbits.mono fun _ u hok _ => fetchCodewordBits_moved (.inl ⟨_, hok⟩)).andThen fun bits u hu => ?_
  unfold afterCodewordBits
  split
  · next i _ hd =>
    obtain ⟨bits', _, hd'⟩ := Option.map_eq_some_iff.mp hd
    simp only [instrResult, decodeBits_isGlaze hd', Bool.false_eq_true, if_false]
    exact emitEntry_meets h hb hp hlt (codewordEntry_lt i)
  · exact .ok (inv_closeTable h hb hp hu)

/-- A Glaze instruction whose table bytes lie below `TCOUNT`: no cursor passes its bound (spec/46_glaze.md R253). -/
theorem copyResult_keeps_inv (h : s.Inv) (hb : s.status = .busy) (hp : s.phase = .glzRun) {i : Instr}
    (hfit : s.glz.tp.toNat + i.size ≤ s.ct.tcount.toNat) :
    Meets (fun _ t => t.Inv) (copyResult i (s.advanceTp i.size)) := by
  obtain ⟨_, hdp, hlp, hwp, hout⟩ := h.cursors hb hp
  obtain ⟨hdict, hovf⟩ := h.streams ⟨hb, by rw [hp]; decide⟩
  have hbuf := holds_payload h hb (by rw [hp]; decide)
  have hready : CopyReady (s.advanceTp i.size) :=
    ⟨hbuf, hdict, hovf, hdp, hlp, hwp, hout⟩
  refine (copyResult_meets hready i).mono fun _ t hok ht => ?_
  have hframe : CopyFrame (s.advanceTp i.size) t := copyResult_leaves (.inl ⟨_, hok⟩)
  have hphase : t.phase = .glzRun := by rw [hframe.same]; exact hp
  refine inv_advance h hb (Kept.trans (.registers rfl) (kept_of_copyFrame hframe)) (by rw [hframe.same]; rfl)
    (.inl (hphase.trans hp.symm)) (fun _ _ => entered_of_eq (by rw [hframe.same]; rfl)) ?_ ?_
  · rw [hphase]
    trivial
  · rw [hphase]
    refine ⟨?_, ht.dp, ht.lp, ht.wp, ht.out⟩
    rw [hframe.same]
    show (s.glz.tp + BitVec.ofNat 32 i.size).toNat ≤ s.ct.tcount.toNat
    have hlt := s.ct.tcount.isLt
    rw [BitVec.toNat_add, BitVec.toNat_ofNat]
    omega

theorem fetchGlaze_meets (h : s.Inv) (hb : s.status = .busy) (hp : s.phase = .glzRun) :
    Meets (fun _ t => t.Inv) (fetchedResult (fetchGlaze s) s) := by
  rw [fetchGlaze_eq_andThen]
  refine (fetchGlazeBytes_meets (h.table ⟨hb, by rw [hp]; decide⟩)).andThen fun bytes u hfit => ?_
  unfold afterTabBytes
  split
  · next i _ hd =>
    obtain ⟨hglaze, hsize⟩ := decodeTab_ok hd
    simp only [instrResult, hglaze, if_true]
    exact copyResult_keeps_inv h hb hp (by omega)
  · exact .raised _ _
  · exact .raised _ _

/-- The end of the Glaze loop: the output is complete (spec/47_orchestrator.md R287). -/
theorem inv_finish (h : s.Inv) (hb : s.status = .busy) (hp : s.phase = .glzRun) (hle : s.expected ≤ s.glz.wp) :
    s.finish.Inv := by
  obtain ⟨_, _, _, _, hout⟩ := h.cursors hb hp
  have hs := sound_of_inv h
  refine inv_of_not_busy (by simp) (sound_of_kept hs (ph := .glzRun) (.registers rfl)) ?_ fun _ a ha => ?_
  · simpa [hb] using h.codes
  · exact hout a (Nat.lt_of_lt_of_le ha hle)
end

/-- A step of a decode with the invariant goes on with the invariant, or raises an error kind. -/
theorem busyResult_meets {s : State} (h : s.Inv) (hb : s.status = .busy) :
    Meets (fun _ t => t.Inv) (busyResult s) := by
  unfold busyResult
  cases hp : s.phase with
  | hdr => exact checkHeader_meets h hb hp
  | seedchk => exact checkSeeds_meets h hb hp
  | s1a => exact passA_meets h hb hp
  | s1b => exact passB_meets h hb hp
  | s2Tail => exact readTail_meets h hb hp
  | s2Scan => exact scanSentinel_meets h hb hp
  | s2Xor => exact xorDecode_meets h hb hp
  | s2Ck => exact checksum_meets h hb hp
  | s2Perm => exact permuteLeading_meets h hb hp
  | glzHdr => exact parseHeader_meets h hb hp
  | glzTab =>
    simp only
    split
    · next hlt => exact fetchCodeword_meets h hb hp hlt
    · exact .ok (inv_closeTable h hb hp rfl)
  | glzRun =>
    simp only
    split
    · exact fetchGlaze_meets h hb hp
    · next hlt => exact .ok (inv_finish h hb hp (BitVec.not_lt.mp hlt))
  | finished => exact absurd hp (h.active hb)

/-- A step of a decode with the invariant answers a next state with the invariant. -/
theorem step_busy_of_inv {s : State} (h : s.Inv) (hb : s.status = .busy) : ∃ t, step s = .next t ∧ t.Inv := by
  rw [step_of_busy hb]
  cases hr : busyResult s with
  | ok a t =>
    have hm := busyResult_meets h hb
    rw [hr] at hm
    cases hm with | ok ht => exact ⟨t, rfl, ht⟩
  | raised k u =>
    exact ⟨u.raise k, rfl, inv_raise (sound_of_kept (sound_of_inv h) (busyResult_kept (.inr ⟨k, hr⟩))) k⟩
  | stuck x =>
    have hm := busyResult_meets h hb
    rw [hr] at hm
    cases hm

/-! ## The host's requests -/

theorem inv_loadContainer {s : State} (h : s.Inv) (hb : s.status ≠ .busy) {bytes : List Byte}
    (hlen : bytes.length < 4294967296) : (s.loadContainer bytes).Inv := by
  have hs := sound_of_inv h
  refine inv_of_not_busy hb
    ⟨⟨Memory.ofBytes_wf _ _, Memory.ofBytes_wf _ _, hs.memories.tab, hs.memories.out⟩, hs.legal, hs.entries, ?_⟩
    h.codes h.output
  have hhdr := Memory.covers_ofBytes (bytes.take Params.headerLen)
  have hbuf := Memory.covers_ofBytes (bytes.drop Params.headerLen)
  rw [List.length_take] at hhdr
  rw [List.length_drop] at hbuf
  rw [State.loadContainer_nIn, toNat_ofNat_of_lt hlen]
  exact ⟨hhdr, hbuf⟩

/-- The invariant of a machine that does not decode speaks neither of the host's list nor of the seeds. -/
theorem inv_setHostSeeds {s : State} (h : s.Inv) (hb : s.status ≠ .busy) (rest : List HostAction) (seeds : SeedSet) :
    ({ s with host := rest, seeds := seeds } : State).Inv :=
  inv_of_not_busy hb ⟨⟨h.memories.hdr, h.memories.buf, h.memories.tab, h.memories.out⟩, h.legal, h.entries, h.loaded⟩
    h.codes h.output

theorem inv_start {s : State} (h : s.Inv) : s.start.Inv := by
  refine (inv_iff_of_busy rfl).mpr
    ⟨⟨⟨h.memories.hdr, h.memories.buf, .nil, .nil⟩, h.legal, ?_, h.loaded⟩, rfl, fun q hq => ?_, trivial⟩
  · intro c hc
    cases hc
  · cases q with
    | hdr => trivial
    | _ => exact absurd hq (by simp [Phase.rank])

/-- A request of the host is answered with the invariant, or is the load of a container that `N_IN` cannot count. -/
theorem hostAct_of_inv {s : State} (h : s.Inv) (hb : s.status ≠ .busy) (a : HostAction) :
    (∃ t, hostAct a s = .next t ∧ t.Inv) ∨
      ∃ bytes, a = .loadContainer bytes ∧ 2 ^ 32 ≤ bytes.length ∧ hostAct a s = .refused .containerTooLong := by
  cases a with
  | loadContainer bytes =>
    by_cases hlen : bytes.length < 4294967296
    · exact .inl ⟨_, if_pos hlen, inv_loadContainer h hb hlen⟩
    · exact .inr ⟨bytes, rfl, Nat.le_of_not_lt hlen, if_neg hlen⟩
  | loadSeeds seeds => exact .inl ⟨_, rfl, inv_setHostSeeds h hb s.host seeds⟩
  | loadTable table => exact .inl ⟨_, rfl, inv_setHostSeeds h hb s.host { s.seeds with table := table }⟩
  | start => exact .inl ⟨_, rfl, inv_start h⟩

/-- What a step comes to from a state with the invariant. -/
theorem step_of_inv {s : State} (h : s.Inv) :
    (∃ t, step s = .next t ∧ t.Inv) ∨
      (s.status ≠ .busy ∧ ∃ bytes rest, s.host = .loadContainer bytes :: rest ∧ 2 ^ 32 ≤ bytes.length ∧
        step s = .refused .containerTooLong) := by
  by_cases hb : s.status = .busy
  · exact .inl (step_busy_of_inv h hb)
  cases hhost : s.host with
  | nil => exact .inl ⟨s, step_of_no_request hb hhost, h⟩
  | cons a rest =>
    rw [step_of_request hb hhost]
    rcases hostAct_of_inv (inv_setHostSeeds h hb rest s.seeds) hb a with hnext | ⟨bytes, rfl, hlen, hrefused⟩
    · exact .inl hnext
    · exact .inr ⟨hb, bytes, rest, rfl, hlen, hrefused⟩

/-- Settles O57: a step that answers next answers the one state that `step_of_inv` gives. -/
theorem everyStepKeepsTheInvariant : Obligations.EveryStepKeepsTheInvariant := by
  unfold Obligations.EveryStepKeepsTheInvariant
  intro s t h hstep
  rcases step_of_inv h with ⟨u, hu, hinv⟩ | ⟨_, bytes, rest, _, _, hrefused⟩
  · rw [hu] at hstep
    cases hstep
    exact hinv
  · rw [hrefused] at hstep
    cases hstep

/-- Settles O58: the two things that `step_of_inv` says a step can come to. -/
theorem noUnwrittenCellIsRead : Obligations.NoUnwrittenCellIsRead := by
  unfold Obligations.NoUnwrittenCellIsRead
  intro s h
  rcases step_of_inv h with ⟨t, ht, _⟩ | ⟨hb, bytes, rest, hhost, hlen, _⟩
  · exact .inl ⟨t, ht⟩
  · exact .inr ⟨hb, bytes, rest, hhost, hlen⟩

end Sys2Proof.Proofs
end

section
/-! SUPPORT. Two machines that hold the same job stay alike (spec/10_state.md R57, R61): what each phase reads of the
registers was written by this decode, so two machines that agree on those registers, on the container, on the seeds and
on the memories a `start` empties take the same step. -/

namespace Sys2Proof.Proofs
open Sys2Proof Sys2Proof.Machine

/-! ## Registers by the phase that writes them -/

/-- The registers that a later step of a decode reads, in groups that are written together. -/
inductive Reg where
  /-- `EXPECTED` and `PAY_LEN`, written in `HDR`. -/
  | payload
  /-- `M` and `A`, seeded by every phase that draws. -/
  | prng
  /-- `LEN`, `AUX`, `CK_HIGH`, `CK_LOW`, written in `S2_TAIL`. -/
  | tail
  /-- `MARKER`, written in `S2_SCAN`. -/
  | marker
  /-- `IDX`, `FUDGE`, `COUNT`, written when step 3 of Stage-2 begins. -/
  | key
  /-- `CX` and `CS`, written when step 4 of Stage-2 begins. -/
  | sums
  /-- `T_LEN`, written in `S2_CK`. -/
  | tLen
  /-- `LB` and the registers of the two byte streams, written by the header parse. -/
  | streams
  /-- `TLEN` and `TCOUNT`, written by the table set-up. -/
  | table
  /-- `CODE_LEN`, written when a codeword is fetched. -/
  | codeLen
  /-- The Bitstream Reader's registers, written by the table set-up. -/
  | reader
  /-- `TP`, `DP`, `LP`, `WP`, written when the table is closed. -/
  | cursors
  deriving DecidableEq

/-- Two machines hold the same in a group of registers. `BR_BITBUF` counts where a bit of it is left to deliver. -/
def Reg.Same : Reg → State → State → Prop
  | .payload, s, u => s.expected = u.expected ∧ s.payLen = u.payLen
  | .prng, s, u => s.prng = u.prng
  | .tail, s, u => s.s2.len = u.s2.len ∧ s.s2.aux = u.s2.aux ∧ s.s2.ckHigh = u.s2.ckHigh ∧ s.s2.ckLow = u.s2.ckLow
  | .marker, s, u => s.s2.marker = u.s2.marker
  | .key, s, u => s.s2.idx = u.s2.idx ∧ s.s2.fudge = u.s2.fudge ∧ s.s2.count = u.s2.count
  | .sums, s, u => s.s2.cx = u.s2.cx ∧ s.s2.cs = u.s2.cs
  | .tLen, s, u => s.s2.tLen = u.s2.tLen
  | .streams, s, u =>
    s.glz.lb = u.glz.lb ∧ s.glz.ld = u.glz.ld ∧ s.glz.lo = u.glz.lo ∧ s.glz.dictBase = u.glz.dictBase ∧
      s.glz.ovfBase = u.glz.ovfBase
  | .table, s, u => s.ct.tlen = u.ct.tlen ∧ s.ct.tcount = u.ct.tcount
  | .codeLen, s, u => s.ct.codeLen = u.ct.codeLen
  | .reader, s, u =>
    s.br.base = u.br.base ∧ s.br.len = u.br.len ∧ s.br.cur = u.br.cur ∧ s.br.mask = u.br.mask ∧
      (s.br.mask ≠ 0 → s.br.bitbuf = u.br.bitbuf)
  | .cursors, s, u =>
    s.glz.tp = u.glz.tp ∧ s.glz.dp = u.glz.dp ∧ s.glz.lp = u.glz.lp ∧ s.glz.wp = u.glz.wp

/-- The registers that a decode in a phase has written and may still read. -/
def liveIn : Phase → List Reg
  | .hdr => []
  | .seedchk | .s1a | .s1b | .s2Tail | .finished => [.payload]
  | .s2Scan => [.payload, .tail]
  | .s2Xor | .s2Ck => [.payload, .tail, .marker]
  | .s2Perm | .glzHdr => [.payload, .tLen]
  | .glzTab => [.payload, .streams, .table, .reader]
  | .glzRun => [.payload, .streams, .table, .cursors]

/-- Two machines agree on everything but the registers, and on the registers of `L`. -/
structure Agree (L : List Reg) (s u : State) : Prop where
  same : u =
    { s with
      free := u.free, prng := u.prng, expected := u.expected, payLen := u.payLen, pe := u.pe, s2 := u.s2, br := u.br
      ct := u.ct, glz := u.glz }
  live : ∀ g ∈ L, g.Same s u

section
variable {L K : List Reg} {s u : State}

namespace Agree

theorem cfg (h : Agree L s u) : u.cfg = s.cfg := by rw [h.same]
theorem host (h : Agree L s u) : u.host = s.host := by rw [h.same]
theorem status (h : Agree L s u) : u.status = s.status := by rw [h.same]
theorem err (h : Agree L s u) : u.err = s.err := by rw [h.same]
theorem phase (h : Agree L s u) : u.phase = s.phase := by rw [h.same]
theorem seeds (h : Agree L s u) : u.seeds = s.seeds := by rw [h.same]
theorem nIn (h : Agree L s u) : u.nIn = s.nIn := by rw [h.same]
theorem hdr (h : Agree L s u) : u.hdr = s.hdr := by rw [h.same]
theorem buf (h : Agree L s u) : u.buf = s.buf := by rw [h.same]
theorem ord (h : Agree L s u) : u.ord = s.ord := by rw [h.same]
theorem tab (h : Agree L s u) : u.tab = s.tab := by rw [h.same]
theorem out (h : Agree L s u) : u.out = s.out := by rw [h.same]

theorem expected (h : Agree L s u) (hp : .payload ∈ L) : u.expected = s.expected := (h.live _ hp).1.symm
theorem payLen (h : Agree L s u) (hp : .payload ∈ L) : u.payLen = s.payLen := (h.live _ hp).2.symm
theorem prng (h : Agree L s u) (hg : .prng ∈ L) : u.prng = s.prng := (h.live _ hg).symm
theorem marker (h : Agree L s u) (hm : .marker ∈ L) : u.s2.marker = s.s2.marker := (h.live _ hm).symm
theorem tLen (h : Agree L s u) (ht : .tLen ∈ L) : u.s2.tLen = s.s2.tLen := (h.live _ ht).symm

theorem bufAt (h : Agree L s u) (hp : .payload ∈ L) : u.bufAt = s.bufAt := by
  funext a
  rw [State.bufAt, State.bufAt, h.buf, h.payLen hp]

theorem maskOf (h : Agree L s u) (e : Nat) : u.maskOf e = s.maskOf e := by rw [State.maskOf, State.maskOf, h.cfg]

theorem mono (h : Agree L s u) (hK : K ⊆ L) : Agree K s u := ⟨h.same, fun g hg => h.live g (hK hg)⟩

theorem nil (h : Agree L s u) : Agree [] s u := h.mono (List.nil_subset L)

/-! ### The named updates -/

theorem setBuf (h : Agree L s u) (a : Nat) (v : Byte) : Agree L (s.setBuf a v) (u.setBuf a v) where
  same := by rw [h.same]; rfl
  live g hg := by cases g <;> exact h.live _ hg

theorem enter (h : Agree L s u) (ph : Phase) : Agree L (s.enter ph) (u.enter ph) where
  same := by rw [h.same]; rfl
  live g hg := by cases g <;> exact h.live _ hg

theorem setPrng (h : Agree L s u) (p : Prng) : Agree (.prng :: L) (s.setPrng p) (u.setPrng p) where
  same := by rw [h.same]; rfl
  live g hg := by
    cases g with
    | prng => rfl
    | _ => exact h.live _ (by simpa using hg)

/-- The Permutation Engine's own registers are hidden state (spec/10_state.md R52). -/
theorem setPe (h : Agree L s u) (p q : PermRegs) : Agree L { s with pe := p } { u with pe := q } where
  same := by rw [h.same]
  live g hg := by cases g <;> exact h.live _ hg

theorem setOrder (h : Agree L s u) (ord pool : List Nat) :
    Agree L { s with ord := ord, pool := pool } { u with ord := ord, pool := pool } where
  same := by rw [h.same]
  live g hg := by cases g <;> exact h.live _ hg

theorem raise (h : Agree L s u) (k : ErrKind) : Agree [] (s.raise k) (u.raise k) where
  same := by rw [h.same]; rfl
  live g hg := by cases hg

end Agree

/-! ## Two runs of one operation -/

/-- An operation comes to the same in two machines: the same value and states that `R` relates, the same error kind, or
the same stop. -/
inductive Both {α : Type} (R : State → State → Prop) : Result α → Result α → Prop where
  | ok (a : α) {t v : State} (h : R t v) : Both R (.ok a t) (.ok a v)
  | raised (k : ErrKind) {t v : State} (h : Agree [] t v) : Both R (.raised k t) (.raised k v)
  | stuck (x : Fault) : Both R (.stuck x) (.stuck x)

section
variable {α β : Type} {R R' : State → State → Prop} {r r' : Result α} {f f' : α → State → Result β}

theorem Both.andThen (h : Both R r r') (hf : ∀ a t v, R t v → Both R' (f a t) (f' a v)) :
    Both R' (r.andThen f) (r'.andThen f') := by
  cases h with
  | ok a h => exact hf a _ _ h
  | raised k h => exact .raised k h
  | stuck x => exact .stuck x

theorem Both.mono (h : Both R r r') (hR : ∀ a t v, r = .ok a t → R t v → R' t v) : Both R' r r' := by
  cases h with
  | ok a h => exact .ok a (hR a _ _ rfl h)
  | raised k h => exact .raised k h
  | stuck x => exact .stuck x

theorem Both.ite {p q : Prop} [Decidable p] [Decidable q] {r₂ r₂' : Result α} (hpq : q ↔ p)
    (ht : p → Both R r r') (he : ¬ p → Both R r₂ r₂') : Both R (if p then r else r₂) (if q then r' else r₂') := by
  by_cases hp : p
  · rw [if_pos hp, if_pos (hpq.mpr hp)]
    exact ht hp
  · rw [if_neg hp, if_neg (fun hq => hp (hpq.mp hq))]
    exact he hp
end

/-! ## `BUF` and `HDR` -/

theorem readBuf_both (h : Agree L s u) (hp : .payload ∈ L) (a : Nat) :
    Both (fun t v => t = s ∧ v = u) (readBuf a s) (readBuf a u) := by
  rw [readBuf, readBuf, h.bufAt hp]
  cases s.bufAt a with
  | none => exact .stuck _
  | some b => exact .ok b ⟨rfl, rfl⟩

theorem writeBuf_both (h : Agree L s u) (hp : .payload ∈ L) (a : Nat) (b : Byte) :
    Both (Agree L) (writeBuf a b s) (writeBuf a b u) :=
  Both.ite (by rw [h.payLen hp]) (fun _ => .ok () (h.setBuf a b)) fun _ => .stuck _

theorem readBuf32_both (h : Agree L s u) (hp : .payload ∈ L) (a : Nat) :
    Both (fun t v => t = s ∧ v = u) (readBuf32 a s) (readBuf32 a u) := by
  rw [readBuf32, readBuf32, h.bufAt hp]
  cases read32 s.bufAt a with
  | none => exact .stuck _
  | some w => exact .ok w ⟨rfl, rfl⟩

theorem readHdr32_both (h : Agree L s u) (a : Nat) :
    Both (fun t v => t = s ∧ v = u) (readHdr32 a s) (readHdr32 a u) := by
  rw [readHdr32, readHdr32, h.hdr]
  cases read32 s.hdr.read a with
  | none => exact .stuck _
  | some w => exact .ok w ⟨rfl, rfl⟩

/-! ## The Permutation Engine -/

theorem buildOrder_both (h : Agree L s u) (hg : .prng ∈ L) (n : Nat) :
    Both (Agree L) (buildOrder n s) (buildOrder n u) := by
  rw [buildOrder, buildOrder, h.prng hg]
  cases drawOrder n s.prng (List.range n) with
  | none => exact .stuck _
  | some d =>
    obtain ⟨ord, pool, p⟩ := d
    have hdrawn := ((h.setPrng p).mono (List.subset_cons_self _ L)).setOrder ord pool
    exact .ok () (hdrawn.setPe _ _)

theorem swapBits_both (h : Agree L s u) (hp : .payload ∈ L) (start rem e0 e1 : Nat) :
    Both (Agree L) (swapBits start rem e0 e1 s) (swapBits start rem e0 e1 u) := by
  refine Both.ite Iff.rfl (fun _ => .raised _ h.nil) fun _ => ?_
  refine (readBuf_both h hp _).andThen ?_
  rintro v0 _ _ ⟨rfl, rfl⟩
  refine (readBuf_both h hp _).andThen ?_
  rintro v1 _ _ ⟨rfl, rfl⟩
  refine Both.ite (by rw [h.maskOf, h.maskOf]) (fun _ => .ok () h) fun _ => ?_
  rw [h.maskOf]
  refine (writeBuf_both h hp _ _).andThen fun _ t v h => ?_
  refine (readBuf_both h hp _).andThen ?_
  rintro v1 _ _ ⟨rfl, rfl⟩
  rw [h.maskOf]
  exact writeBuf_both h hp _ _

theorem walkFrom_both (h : Agree L s u) (hp : .payload ∈ L) (start rem pairs i : Nat) :
    Both (Agree L) (walkFrom start rem pairs i s) (walkFrom start rem pairs i u) := by
  induction pairs generalizing i s u with
  | zero => exact .ok () (h.setPe _ _)
  | succ pairs ih =>
    have h0 : u.ord[i]? = s.ord[i]? := by rw [h.ord]
    have h1 : u.ord[i + 1]? = s.ord[i + 1]? := by rw [h.ord]
    simp only [walkFrom, h0, h1]
    split
    · exact (swapBits_both (h.setPe _ _) hp _ _ _ _).andThen fun _ t v h => ih h _
    · exact .stuck _

theorem permuteSlice_both (h : Agree L s u) (hp : .payload ∈ L) (hg : .prng ∈ L) (base total slice pos : Nat) :
    Both (Agree L) (permuteSlice base total slice pos s) (permuteSlice base total slice pos u) := by
  refine (buildOrder_both (h.setPe _ _) hg _).andThen fun _ t v h => ?_
  have hcount : participating v.cfg.partialLimit slice (total - pos) =
      participating t.cfg.partialLimit slice (total - pos) := by rw [h.cfg]
  simp only [hcount]
  exact walkFrom_both (h.setPe _ _) hp _ _ _ _

theorem sliceLoop_both (h : Agree L s u) (hp : .payload ∈ L) (hg : .prng ∈ L) (base total slice fuel pos : Nat) :
    Both (Agree L) (sliceLoop base total slice fuel pos s) (sliceLoop base total slice fuel pos u) := by
  induction fuel generalizing pos s u with
  | zero => exact .ok () h
  | succ fuel ih =>
    exact Both.ite Iff.rfl (fun _ => .ok () (h.setPe _ _)) fun _ =>
      (permuteSlice_both h hp hg _ _ _ _).andThen fun _ t v h => ih h _

theorem permuteChunks_both (h : Agree L s u) (hp : .payload ∈ L) (base total slice : Nat) (m a : Word) :
    Both (Agree L) (permuteChunks base total slice m a s) (permuteChunks base total slice m a u) := by
  unfold permuteChunks
  simp only
  refine Both.ite Iff.rfl (fun _ => .raised _ (h.setPe _ _).nil) fun _ => ?_
  refine Both.ite (by rw [h.cfg]) (fun _ => .raised _ (h.setPe _ _).nil) fun _ => ?_
  refine Both.mono (sliceLoop_both ((h.setPe _ _).setPrng _) (List.mem_cons_of_mem _ hp) List.mem_cons_self _ _ _ _ _)
    fun _ _ _ _ h => h.mono (List.subset_cons_self _ L)

/-! ## The loops of Stage-1 and Stage-2 -/

theorem passBWord_both (h : Agree L s u) (hp : .payload ∈ L) (hg : .prng ∈ L) (k : Nat) :
    Both (Agree L) (passBWord k s) (passBWord k u) := by
  refine (readBuf_both h hp _).andThen ?_
  rintro b0 _ _ ⟨rfl, rfl⟩
  refine (readBuf_both h hp _).andThen ?_
  rintro b1 s u ⟨rfl, rfl⟩
  simp only [h.prng hg, h.seeds]
  have hdraw := (h.setPrng s.prng.draw15.2).mono (List.subset_cons_self _ L)
  exact (writeBuf_both hdraw hp _ _).andThen fun _ t v h => writeBuf_both h hp _ _

theorem passBFrom_both (h : Agree L s u) (hp : .payload ∈ L) (hg : .prng ∈ L) (words k : Nat) :
    Both (Agree L) (passBFrom words k s) (passBFrom words k u) := by
  induction words generalizing k s u with
  | zero => exact .ok () h
  | succ words ih => exact (passBWord_both h hp hg k).andThen fun _ t v h => ih h _

theorem scanBelow_both (h : Agree L s u) (hp : .payload ∈ L) (i : Nat) :
    Both (fun t v => t = s ∧ v = u) (scanBelow i s) (scanBelow i u) := by
  induction i with
  | zero => exact .raised _ h.nil
  | succ i ih =>
    refine (readBuf_both h hp i).andThen ?_
    rintro b _ _ ⟨rfl, rfl⟩
    exact Both.ite Iff.rfl (fun _ => .ok i ⟨rfl, rfl⟩) fun _ => ih

/-- The registers of step 3 of Stage-2 while its bytes are decoded (spec/43_stage2.md R185). -/
def keyLive : List Reg := [.prng, .key, .payload, .tail, .marker]

theorem Agree.key (h : Agree L s u) (hk : .key ∈ L) :
    u.s2.idx = s.s2.idx ∧ u.s2.fudge = s.s2.fudge ∧ u.s2.count = s.s2.count := by
  obtain ⟨hidx, hfudge, hcount⟩ := h.live _ hk
  exact ⟨hidx.symm, hfudge.symm, hcount.symm⟩

theorem Agree.countKey (h : Agree keyLive s u) :
    Agree keyLive { s with s2 := { s.s2 with count := s.s2.count + 1 } }
      { u with s2 := { u.s2 with count := u.s2.count + 1 } } where
  same := by rw [h.same]
  live g hg := by
    obtain ⟨hidx, hfudge, hcount⟩ := h.live .key (by decide)
    cases g with
    | key => exact ⟨hidx, hfudge, by simp only [hcount]⟩
    | _ => exact h.live _ hg

theorem Agree.rotate (h : Agree keyLive s u) : Agree keyLive (rotateIfDue s) (rotateIfDue u) := by
  obtain ⟨hidx, hfudge, hcount⟩ := h.key (by decide)
  unfold rotateIfDue
  rw [hidx, hfudge, hcount, h.seeds, h.prng (by decide)]
  split
  · refine ⟨by rw [h.same], fun g hg => ?_⟩
    cases g with
    | prng => rfl
    | key => exact ⟨rfl, rfl, rfl⟩
    | _ => exact h.live _ hg
  · exact h

theorem xorByte_both (h : Agree keyLive s u) (i : Nat) : Both (Agree keyLive) (xorByte i s) (xorByte i u) := by
  refine (readBuf_both h (by decide) i).andThen ?_
  rintro b s u ⟨rfl, rfl⟩
  simp only [h.prng (by decide)]
  have hdraw := (h.setPrng s.prng.draw8.2).mono (List.subset_cons_self _ keyLive)
  exact (writeBuf_both hdraw (by decide) _ _).andThen fun _ t v h => .ok () h.countKey.rotate

theorem xorFrom_both (h : Agree keyLive s u) (bytes i : Nat) :
    Both (Agree keyLive) (xorFrom bytes i s) (xorFrom bytes i u) := by
  induction bytes generalizing i s u with
  | zero => exact .ok () h
  | succ bytes ih => exact (xorByte_both h i).andThen fun _ t v h => ih h _

theorem Agree.sums (h : Agree L s u) (hs : .sums ∈ L) : u.s2.cx = s.s2.cx ∧ u.s2.cs = s.s2.cs := by
  obtain ⟨hcx, hcs⟩ := h.live _ hs
  exact ⟨hcx.symm, hcs.symm⟩

theorem Agree.setSums (h : Agree L s u) (cx cs : Word) :
    Agree (.sums :: L) { s with s2 := { s.s2 with cx := cx, cs := cs } }
      { u with s2 := { u.s2 with cx := cx, cs := cs } } where
  same := by rw [h.same]
  live g hg := by
    cases g with
    | sums => exact ⟨rfl, rfl⟩
    | _ => exact h.live _ (by simpa using hg)

theorem foldFrom_both (h : Agree L s u) (hp : .payload ∈ L) (hs : .sums ∈ L) (words j : Nat) :
    Both (Agree L) (foldFrom words j s) (foldFrom words j u) := by
  induction words generalizing j s u with
  | zero => exact .ok () h
  | succ words ih =>
    refine (readBuf32_both h hp _).andThen ?_
    rintro w _ _ ⟨rfl, rfl⟩
    obtain ⟨hcx, hcs⟩ := h.sums hs
    rw [hcx, hcs]
    exact ih ((h.setSums _ _).mono (List.subset_cons_self _ L)) _

/-! ## The Bitstream Reader -/

theorem deliverBit_both (h : Agree L s u) (hr : .reader ∈ L) (hmask : s.br.mask ≠ 0) :
    Both (Agree L) (deliverBit s) (deliverBit u) := by
  obtain ⟨hbase, hlen, hcur, hm, hbuf⟩ := h.live _ hr
  have hbuf := hbuf hmask
  unfold deliverBit
  rw [← hm, ← hbuf]
  refine .ok _ ⟨by rw [h.same]; rfl, fun g hg => ?_⟩
  cases g with
  | reader => exact ⟨hbase, hlen, hcur, rfl, fun _ => hbuf⟩
  | _ => exact h.live _ hg

theorem readBit_both (h : Agree L s u) (hp : .payload ∈ L) (hr : .reader ∈ L) :
    Both (Agree L) (readBit s) (readBit u) := by
  obtain ⟨hbase, hlen, hcur, hm, _⟩ := h.live _ hr
  unfold readBit
  refine Both.ite (by rw [hm]) (fun _ => ?_) fun hmask => deliverBit_both h hr hmask
  refine Both.ite (by rw [hlen, hcur]) (fun _ => .ok none h) fun _ => ?_
  rw [← hbase, ← hcur]
  refine (readBuf_both h hp _).andThen ?_
  rintro b _ _ ⟨rfl, rfl⟩
  refine deliverBit_both ⟨by rw [h.same]; rfl, fun g hg => ?_⟩ hr (by simp)
  cases g with
  | reader => exact ⟨hbase, hlen, by simp [hcur], rfl, fun _ => rfl⟩
  | _ => exact h.live _ hg

theorem takeBits_both (h : Agree L s u) (hp : .payload ∈ L) (hr : .reader ∈ L) (n : Nat) :
    Both (Agree L) (takeBits n s) (takeBits n u) := by
  induction n generalizing s u with
  | zero => exact .ok _ h
  | succ n ih =>
    refine (readBit_both h hp hr).andThen fun b t v h => ?_
    cases b with
    | none => exact .ok none h
    | some b => exact (ih h).andThen fun bs _ _ h => .ok _ h

theorem Agree.setCodeLen (h : Agree L s u) (c : BitVec 3) :
    Agree (.codeLen :: L) { s with ct := { s.ct with codeLen := c } } { u with ct := { u.ct with codeLen := c } } where
  same := by rw [h.same]
  live g hg := by
    cases g with
    | codeLen => rfl
    | _ => exact h.live _ (by simpa using hg)

theorem fetchPrefix_both (h : Agree L s u) (hp : .payload ∈ L) (hr : .reader ∈ L) (hc : .codeLen ∈ L) (n : Nat) :
    Both (Agree L) (fetchPrefix n s) (fetchPrefix n u) := by
  induction n generalizing s u with
  | zero => exact .ok _ h
  | succ n ih =>
    refine (readBit_both h hp hr).andThen fun b t v h => ?_
    match b with
    | none => exact .ok none h
    | some true => exact .ok _ h
    | some false =>
      have hcode : v.ct.codeLen = t.ct.codeLen := (h.live _ hc).symm
      have hcount : Agree L t.countZero v.countZero := by
        rw [State.countZero, State.countZero, hcode]
        exact (h.setCodeLen _).mono (List.subset_cons_self _ L)
      exact (ih hcount).andThen fun bs _ _ h => .ok _ h

theorem fetchCodewordBits_both (h : Agree L s u) (hp : .payload ∈ L) (hr : .reader ∈ L) :
    Both (Agree L) (fetchCodewordBits s) (fetchCodewordBits u) := by
  have hp' : Reg.payload ∈ Reg.codeLen :: L := List.mem_cons_of_mem _ hp
  have hr' : Reg.reader ∈ Reg.codeLen :: L := List.mem_cons_of_mem _ hr
  have hback := List.subset_cons_self Reg.codeLen L
  refine (fetchPrefix_both (h.setCodeLen 0) hp' hr' List.mem_cons_self _).andThen fun pre t v h => ?_
  cases pre with
  | none => exact .ok none (h.mono hback)
  | some pre =>
    have hcode : v.ct.codeLen = t.ct.codeLen := (h.live .codeLen List.mem_cons_self).symm
    refine Both.ite Iff.rfl (fun _ => .ok _ (h.mono hback)) fun _ => ?_
    rw [hcode]
    exact (takeBits_both h hp' hr' _).andThen fun pay _ _ h => .ok _ (h.mono hback)
end

end Sys2Proof.Proofs
end

section
/-! SUPPORT. The phases of two machines that hold the same job, and the run of a whole decode (spec/10_state.md R61). -/

namespace Sys2Proof.Proofs
open Sys2Proof Sys2Proof.Machine

section
variable {s u : State}

/-! ## The Glaze loop -/

/-- What the Glaze loop reads of its registers, the same in both machines. -/
structure SameLoop (s u : State) : Prop where
  ld : u.glz.ld = s.glz.ld
  lo : u.glz.lo = s.glz.lo
  dictBase : u.glz.dictBase = s.glz.dictBase
  ovfBase : u.glz.ovfBase = s.glz.ovfBase
  tcount : u.ct.tcount = s.ct.tcount
  tp : u.glz.tp = s.glz.tp
  dp : u.glz.dp = s.glz.dp
  lp : u.glz.lp = s.glz.lp
  wp : u.glz.wp = s.glz.wp

theorem Agree.loop (h : Agree (liveIn .glzRun) s u) : SameLoop s u := by
  obtain ⟨_, hld, hlo, hdict, hovf⟩ := h.live .streams (by decide)
  obtain ⟨_, htcount⟩ := h.live .table (by decide)
  obtain ⟨htp, hdp, hlp, hwp⟩ := h.live .cursors (by decide)
  exact ⟨hld.symm, hlo.symm, hdict.symm, hovf.symm, htcount.symm, htp.symm, hdp.symm, hlp.symm, hwp.symm⟩

theorem Agree.advanceTp (h : Agree (liveIn .glzRun) s u) (n : Nat) :
    Agree (liveIn .glzRun) (s.advanceTp n) (u.advanceTp n) where
  same := by rw [h.same]; rfl
  live g hg := by
    cases g with
    | cursors => simp [Reg.Same, h.loop.tp, h.loop.dp, h.loop.lp, h.loop.wp]
    | _ => exact h.live _ hg

theorem Agree.pushOut (h : Agree (liveIn .glzRun) s u) (b : Byte) :
    Agree (liveIn .glzRun) (s.pushOut b) (u.pushOut b) where
  same := by rw [State.pushOut, State.pushOut, h.loop.wp, h.out, h.same]
  live g hg := by
    cases g with
    | cursors => simp [Reg.Same, h.loop.tp, h.loop.dp, h.loop.lp, h.loop.wp]
    | _ => exact h.live _ hg

theorem Agree.takeDict (h : Agree (liveIn .glzRun) s u) :
    Agree (liveIn .glzRun) { s with glz := { s.glz with dp := s.glz.dp + 1 } }
      { u with glz := { u.glz with dp := u.glz.dp + 1 } } where
  same := by rw [h.same]
  live g hg := by
    cases g with
    | cursors => simp [Reg.Same, h.loop.tp, h.loop.dp, h.loop.lp, h.loop.wp]
    | _ => exact h.live _ hg

theorem Agree.takeOvf (h : Agree (liveIn .glzRun) s u) :
    Agree (liveIn .glzRun) { s with glz := { s.glz with lp := s.glz.lp + 1 } }
      { u with glz := { u.glz with lp := u.glz.lp + 1 } } where
  same := by rw [h.same]
  live g hg := by
    cases g with
    | cursors => simp [Reg.Same, h.loop.tp, h.loop.dp, h.loop.lp, h.loop.wp]
    | _ => exact h.live _ hg

theorem fetchTab_both (h : Agree (liveIn .glzRun) s u) :
    Both (Agree (liveIn .glzRun)) (fetchTab s) (fetchTab u) := by
  unfold fetchTab
  refine Both.ite (by rw [h.loop.tcount, h.loop.tp]) (fun _ => .raised _ h.nil) fun _ => ?_
  rw [h.tab, h.loop.tp]
  cases s.tab.read s.glz.tp.toNat with
  | none => exact .stuck _
  | some v => exact .ok v (h.advanceTp 1)

theorem fetchDict_both (h : Agree (liveIn .glzRun) s u) :
    Both (Agree (liveIn .glzRun)) (fetchDict s) (fetchDict u) := by
  have haddr : u.dictAddr = s.dictAddr := by rw [State.dictAddr, State.dictAddr, h.loop.dictBase, h.loop.dp]
  unfold fetchDict
  refine Both.ite (by rw [h.loop.ld, h.loop.dp]) (fun _ => .raised _ h.nil) fun _ => ?_
  rw [haddr]
  refine (readBuf_both h (by decide) _).andThen ?_
  rintro v _ _ ⟨rfl, rfl⟩
  exact .ok v h.takeDict

theorem fetchOvf_both (h : Agree (liveIn .glzRun) s u) :
    Both (Agree (liveIn .glzRun)) (fetchOvf s) (fetchOvf u) := by
  have haddr : u.ovfAddr = s.ovfAddr := by rw [State.ovfAddr, State.ovfAddr, h.loop.ovfBase, h.loop.lp]
  unfold fetchOvf
  refine Both.ite (by rw [h.loop.lo, h.loop.lp]) (fun _ => .raised _ h.nil) fun _ => ?_
  rw [haddr]
  refine (readBuf_both h (by decide) _).andThen ?_
  rintro v _ _ ⟨rfl, rfl⟩
  exact .ok v h.takeOvf

theorem put_both (h : Agree (liveIn .glzRun) s u) (b : Byte) :
    Both (Agree (liveIn .glzRun)) (put b s) (put b u) :=
  Both.ite (by rw [h.expected (by decide), h.loop.wp]) (fun _ => .raised _ h.nil) fun _ => .ok () (h.pushOut b)

theorem backref_both (h : Agree (liveIn .glzRun) s u) (dist len : Nat) :
    Both (Agree (liveIn .glzRun)) (backref dist len s) (backref dist len u) := by
  induction len generalizing s u with
  | zero => exact .ok () h
  | succ len ih =>
    unfold backref
    refine Both.ite (by rw [h.loop.wp]) (fun _ => .raised _ h.nil) fun _ => ?_
    rw [h.out, h.loop.wp]
    cases s.out.read (s.glz.wp.toNat - dist) with
    | none => exact .stuck _
    | some b => exact (put_both h b).andThen fun _ _ _ h => ih h

theorem litrun_both (h : Agree (liveIn .glzRun) s u) (count : Nat) :
    Both (Agree (liveIn .glzRun)) (litrun count s) (litrun count u) := by
  induction count generalizing s u with
  | zero => exact .ok () h
  | succ count ih =>
    exact ((fetchDict_both h).andThen fun b _ _ h => put_both h b).andThen fun _ _ _ h => ih h

theorem copyResult_both (h : Agree (liveIn .glzRun) s u) (i : Instr) :
    Both (Agree (liveIn .glzRun)) (copyResult i s) (copyResult i u) := by
  cases i with
  | rep _ | cpy _ _ => exact backref_both h _ _
  | run _ => exact litrun_both h _
  | lit => exact (fetchDict_both h).andThen fun b _ _ h => put_both h b
  | cpyd _ | cpyw _ _ => exact (fetchDict_both h).andThen fun _ _ _ h => backref_both h _ _
  | runx => exact (fetchOvf_both h).andThen fun _ _ _ h => litrun_both h _
  | _ => exact .ok () h

theorem fetchOperands_both (h : Agree (liveIn .glzRun) s u) (n : Nat) :
    Both (Agree (liveIn .glzRun)) (fetchOperands n s) (fetchOperands n u) := by
  induction n generalizing s u with
  | zero => exact .ok _ h
  | succ n ih => exact (fetchTab_both h).andThen fun _ _ _ h => (ih h).andThen fun _ _ _ h => .ok _ h

theorem fetchGlazeBytes_both (h : Agree (liveIn .glzRun) s u) :
    Both (Agree (liveIn .glzRun)) (fetchGlazeBytes s) (fetchGlazeBytes u) :=
  (fetchTab_both h).andThen fun _ _ _ h => (fetchOperands_both h _).andThen fun _ _ _ h => .ok _ h

/-! ## Machines that hold the same job -/

/-- The registers that the rest of a decode, or the `collect` after it, reads. -/
def liveRegs (s : State) : List Reg :=
  match s.status with
  | .busy => liveIn s.phase
  | .done => [.payload]
  | .idle | .failed => []

/-- Two machines hold the same job: they differ in nothing that a later step or a `collect` reads. -/
def Twin (s u : State) : Prop := Agree (liveRegs s) s u

theorem Agree.twin {L : List Reg} (h : Agree L s u) (hL : liveIn s.phase ⊆ L) (hp : .payload ∈ L) : Twin s u := by
  refine h.mono ?_
  unfold liveRegs
  cases s.status with
  | busy => exact hL
  | done => exact List.cons_subset.mpr ⟨hp, List.nil_subset L⟩
  | idle | failed => exact List.nil_subset L

theorem Agree.twin_enter {L : List Reg} (h : Agree L s u) {ph : Phase} (hL : liveIn ph ⊆ L) (hp : .payload ∈ L) :
    Twin (s.enter ph) (u.enter ph) := (h.enter ph).twin hL hp

theorem Twin.agree (h : Twin s u) (hb : s.status = .busy) : Agree (liveIn s.phase) s u := by
  unfold Twin liveRegs at h
  rwa [hb] at h

/-! ## Phase by phase -/

theorem checkHeader_both (h : Agree (liveIn .hdr) s u) : Both Twin (checkHeader s) (checkHeader u) := by
  refine Both.ite (by rw [h.cfg, h.nIn]) (fun _ => .raised _ h.nil) fun _ => ?_
  refine Both.ite (by rw [h.nIn]) (fun _ => .raised _ h.nil) fun _ => ?_
  refine (readHdr32_both h 0).andThen ?_
  rintro tag _ _ ⟨rfl, rfl⟩
  refine Both.ite Iff.rfl (fun _ => .raised _ h.nil) fun _ => ?_
  refine (readHdr32_both h 4).andThen ?_
  rintro size s u ⟨rfl, rfl⟩
  refine .ok () (Agree.twin_enter (L := liveIn .seedchk) ⟨by rw [h.same], fun g hg => ?_⟩ (by decide) (by decide))
  cases g with
  | payload => exact ⟨rfl, by simp only [h.nIn]⟩
  | _ => exact absurd hg (by decide)

theorem checkSeeds_both (h : Agree (liveIn .seedchk) s u) : Both Twin (checkSeeds s) (checkSeeds u) :=
  Both.ite (by rw [h.seeds]) (fun _ => .raised _ h.nil) fun _ => .ok () (h.twin_enter (by decide) (by decide))

theorem passA_both (h : Agree (liveIn .s1a) s u) : Both Twin (passA s) (passA u) := by
  unfold passA
  rw [h.payLen (by decide), h.seeds]
  exact (permuteChunks_both h (by decide) _ _ _ _ _).andThen fun _ _ _ h =>
    .ok () (h.twin_enter (by decide) (by decide))

theorem passB_both (h : Agree (liveIn .s1b) s u) : Both Twin (passB s) (passB u) := by
  unfold passB
  rw [h.payLen (by decide), h.seeds]
  exact (passBFrom_both (h.setPrng _) (by decide) (by decide) _ _).andThen fun _ _ _ h =>
    .ok () (h.twin_enter (by decide) (by decide))

/-- No Stage-2 register is read before `S2_TAIL` has written it. -/
theorem Agree.setS2 (h : Agree (liveIn .s2Tail) s u) (a b : Stage2Regs) :
    Agree (liveIn .s2Tail) { s with s2 := a } { u with s2 := b } where
  same := by rw [h.same]
  live g hg := by
    cases g with
    | payload => exact h.live _ hg
    | _ => exact absurd hg (by decide)

theorem readTail_both (h : Agree (liveIn .s2Tail) s u) : Both Twin (readTail s) (readTail u) := by
  have hlen : u.payLen.toNat = s.payLen.toNat := by rw [h.payLen (by decide)]
  unfold readTail
  simp only [hlen]
  refine Both.ite Iff.rfl (fun _ => .raised _ (h.setS2 _ _).nil) fun _ => ?_
  refine (readBuf32_both (h.setS2 _ _) (by decide) _).andThen ?_
  rintro aux _ _ ⟨rfl, rfl⟩
  refine (readBuf32_both (h.setS2 _ _) (by decide) _).andThen ?_
  rintro high _ _ ⟨rfl, rfl⟩
  refine (readBuf32_both (h.setS2 _ _) (by decide) _).andThen ?_
  rintro low _ _ ⟨rfl, rfl⟩
  refine .ok () (Agree.twin_enter (L := liveIn .s2Scan) ⟨(h.setS2 _ _).same, fun g hg => ?_⟩ (by decide) (by decide))
  cases g with
  | payload => exact h.live .payload (by decide)
  | tail => exact ⟨rfl, rfl, rfl, rfl⟩
  | _ => exact absurd hg (by decide)

theorem scanSentinel_both (h : Agree (liveIn .s2Scan) s u) : Both Twin (scanSentinel s) (scanSentinel u) := by
  obtain ⟨hlen, _⟩ := h.live .tail (by decide)
  unfold scanSentinel
  rw [← hlen]
  refine (scanBelow_both h (by decide) _).andThen ?_
  rintro i s u ⟨rfl, rfl⟩
  refine .ok () (Agree.twin_enter (L := liveIn .s2Xor) ⟨by rw [h.same], fun g hg => ?_⟩ (by decide) (by decide))
  cases g with
  | marker => rfl
  | payload => exact h.live .payload (by decide)
  | tail => exact h.live .tail (by decide)
  | _ => exact absurd hg (by decide)

theorem Agree.keySeed (h : Agree (liveIn .s2Xor) s u) : Agree keyLive s.keySeed u.keySeed where
  same := by rw [h.same]; rfl
  live g hg := by
    obtain ⟨_, haux, _⟩ := h.live .tail (by decide)
    cases g with
    | prng =>
      show s.keySeed.prng = u.keySeed.prng
      rw [State.keySeed, State.keySeed, h.cfg, h.seeds, haux]
    | key => exact ⟨rfl, rfl, rfl⟩
    | payload => exact h.live .payload (by decide)
    | tail => exact h.live .tail (by decide)
    | marker => exact h.live .marker (by decide)
    | _ => exact absurd hg (by decide)

theorem xorDecode_both (h : Agree (liveIn .s2Xor) s u) : Both Twin (xorDecode s) (xorDecode u) := by
  unfold xorDecode
  rw [h.marker (by decide)]
  exact (xorFrom_both h.keySeed _ _).andThen fun _ _ _ h => .ok () (h.twin_enter (by decide) (by decide))

/-- The registers of step 4 of Stage-2 while the words are folded (spec/43_stage2.md R192). -/
def foldLive : List Reg := [.sums, .tLen, .payload, .tail]

theorem Agree.foldSeed (h : Agree (liveIn .s2Ck) s u) : Agree foldLive (foldSeed s) (foldSeed u) where
  same := by rw [h.same]; rfl
  live g hg := by
    cases g with
    | sums => simp [Reg.Same, Proofs.foldSeed, h.cfg]
    | tLen => simp [Reg.Same, Proofs.foldSeed, h.marker (by decide)]
    | payload => exact h.live .payload (by decide)
    | tail => exact h.live .tail (by decide)
    | _ => exact absurd hg (by decide)

theorem checksum_both (h : Agree (liveIn .s2Ck) s u) : Both Twin (checksum s) (checksum u) := by
  unfold checksum
  rw [h.marker (by decide)]
  refine (writeBuf_both h (by decide) _ _).andThen fun _ t v h => ?_
  show Both Twin ((foldFrom (truncatedLen t.s2.marker / 4) 0 (Proofs.foldSeed t)).andThen _)
    ((foldFrom (truncatedLen v.s2.marker / 4) 0 (Proofs.foldSeed v)).andThen _)
  rw [h.marker (by decide)]
  refine (foldFrom_both h.foldSeed (by decide) (by decide) _ _).andThen fun _ t v h => ?_
  obtain ⟨_, _, hhigh, hlow⟩ := h.live .tail (by decide)
  obtain ⟨hcx, hcs⟩ := h.live .sums (by decide)
  exact Both.ite (by rw [h.cfg, hcx, hcs, hhigh, hlow]) (fun _ => .raised _ h.nil) fun _ =>
    .ok () (h.twin_enter (by decide) (by decide))

theorem permuteLeading_both (h : Agree (liveIn .s2Perm) s u) : Both Twin (permuteLeading s) (permuteLeading u) := by
  unfold permuteLeading
  rw [h.tLen (by decide), h.seeds]
  exact (permuteChunks_both h (by decide) _ _ _ _ _).andThen fun _ _ _ h =>
    .ok () (h.twin_enter (by decide) (by decide))

/-- No Glaze register is read before the header parse has written it. -/
theorem Agree.setGlz (h : Agree (liveIn .glzHdr) s u) (a b : GlazeRegs) :
    Agree (liveIn .glzHdr) { s with glz := a } { u with glz := b } where
  same := by rw [h.same]
  live g hg := by
    cases g with
    | payload | tLen => exact h.live _ hg
    | _ => exact absurd hg (by decide)

theorem lengthPrefix_both (h : Agree (liveIn .glzHdr) s u) (pos : Nat) :
    Both (fun t v => t = s ∧ v = u) (lengthPrefix pos s) (lengthPrefix pos u) :=
  Both.ite (by rw [h.tLen (by decide)]) (fun _ => .raised _ h.nil) fun _ => readBuf32_both h (by decide) pos

/-- The registers that the table set-up finds written (spec/45_code_table.md R220). -/
def parsedLive : List Reg := [.payload, .streams]

theorem openTable_both (h : Agree parsedLive s u) (hp : s.phase = .glzTab) :
    Both Twin (openTable s) (openTable u) := by
  obtain ⟨hlb, _⟩ := h.live .streams (by decide)
  refine Both.ite (by rw [hlb]) (fun _ => .raised _ h.nil) fun _ => ?_
  refine (readBuf32_both h (by decide) _).andThen ?_
  rintro tlen s u ⟨rfl, rfl⟩
  refine Both.ite (by simp only [h.cfg]) (fun _ => .raised _ ⟨by rw [h.same], nofun⟩) fun _ => ?_
  refine .ok () (Agree.twin (L := liveIn .glzTab) ⟨by rw [h.same]; rfl, fun g hg => ?_⟩ ?_ (by decide))
  · cases g with
    | payload => exact h.live .payload (by decide)
    | streams => exact h.live .streams (by decide)
    | table => exact ⟨rfl, rfl⟩
    | reader => exact ⟨rfl, by simp [hlb], rfl, rfl, fun hmask => absurd rfl hmask⟩
    | _ => exact absurd hg (by decide)
  · rw [initReader_phase, hp]
    exact List.Subset.refl _

theorem parseHeader_both (h : Agree (liveIn .glzHdr) s u) : Both Twin (parseHeader s) (parseHeader u) := by
  have hlen : u.s2.tLen.toNat = s.s2.tLen.toNat := by rw [h.tLen (by decide)]
  unfold parseHeader
  simp only [hlen]
  refine Both.ite Iff.rfl (fun _ => .raised _ h.nil) fun _ => ?_
  refine (readBuf32_both h (by decide) 0).andThen ?_
  rintro declared _ _ ⟨rfl, rfl⟩
  refine (readBuf32_both h (by decide) 4).andThen ?_
  rintro lb s u ⟨rfl, rfl⟩
  refine Both.ite (by simp only [h.expected (by decide)]) (fun _ => .raised _ (h.setGlz _ _).nil) fun _ => ?_
  refine Both.ite (by simp only [h.cfg, h.expected (by decide)]) (fun _ => .raised _ (h.setGlz _ _).nil) fun _ => ?_
  refine Both.ite Iff.rfl (fun _ => .raised _ (h.setGlz _ _).nil) fun _ => ?_
  refine (lengthPrefix_both (h.setGlz _ _) _).andThen ?_
  rintro ld _ _ ⟨rfl, rfl⟩
  refine Both.ite Iff.rfl (fun _ => .raised _ (h.setGlz _ _).nil) fun _ => ?_
  refine (lengthPrefix_both (h.setGlz _ _) _).andThen ?_
  rintro lo _ _ ⟨rfl, rfl⟩
  refine Both.ite Iff.rfl (fun _ => .raised _ (h.setGlz _ _).nil) fun _ => ?_
  refine openTable_both ⟨((h.setGlz _ _).enter _).same, fun g hg => ?_⟩ rfl
  cases g with
  | payload => exact h.live .payload (by decide)
  | streams => exact ⟨rfl, rfl, rfl, rfl, rfl⟩
  | _ => exact absurd hg (by decide)

theorem Agree.twin_closeTable (h : Agree (liveIn .glzTab) s u) : Twin s.closeTable u.closeTable := by
  refine Agree.twin (L := liveIn .glzRun) ⟨by rw [h.same]; rfl, fun g hg => ?_⟩ (List.Subset.refl _) (by decide)
  cases g with
  | payload => exact h.live .payload (by decide)
  | streams => exact h.live .streams (by decide)
  | table => exact h.live .table (by decide)
  | cursors => exact ⟨rfl, rfl, rfl, rfl⟩
  | _ => exact absurd hg (by decide)

theorem Agree.pushTab (h : Agree (liveIn .glzTab) s u) (k : Nat) (v : Byte) :
    Agree (liveIn .glzTab) (s.pushTab k v) (u.pushTab k v) := by
  obtain ⟨htlen, htcount⟩ := h.live .table (by decide)
  refine ⟨by rw [State.pushTab, State.pushTab, ← htcount, h.tab, h.same], fun g hg => ?_⟩
  cases g with
  | table => exact ⟨htlen, by simp [htcount]⟩
  | codeLen => rfl
  | _ => exact h.live _ hg

theorem emitEntry_both (h : Agree (liveIn .glzTab) s u) (hp : s.phase = .glzTab) (bits k : Nat) (v : Byte) :
    Both Twin (emitEntry bits k v s) (emitEntry bits k v u) := by
  have hread := takeBits_both h (by decide) (by decide) bits
  refine (hread.mono fun _ t w hok h' => And.intro (takeBits_leaves (.inl ⟨_, hok⟩)) h').andThen
    fun r t w ⟨ht, h'⟩ => ?_
  cases r with
  | none =>
    exact .ok () ((h'.setCodeLen _).mono (List.subset_cons_self _ _)).twin_closeTable
  | some _ =>
    refine .ok () ((h'.pushTab k v).twin ?_ (by decide))
    rw [State.pushTab_phase, ht]
    exact hp ▸ List.Subset.refl _

theorem fetchCodeword_both (h : Agree (liveIn .glzTab) s u) (hp : s.phase = .glzTab) :
    Both Twin (fetchedResult (fetchCodeword s) s) (fetchedResult (fetchCodeword u) u) := by
  rw [fetchCodeword_eq_andThen, fetchCodeword_eq_andThen]
  refine (fetchCodewordBits_both h (by decide) (by decide)).andThen fun bits t v h' => ?_
  unfold afterCodewordBits
  split
  · next i _ hd =>
    obtain ⟨bits', _, hd'⟩ := Option.map_eq_some_iff.mp hd
    simp only [instrResult, decodeBits_isGlaze hd', Bool.false_eq_true, if_false]
    exact emitEntry_both h hp _ _ _
  · exact .ok () h'.twin_closeTable

theorem fetchGlaze_both (h : Agree (liveIn .glzRun) s u) (hp : s.phase = .glzRun) :
    Both Twin (fetchedResult (fetchGlaze s) s) (fetchedResult (fetchGlaze u) u) := by
  rw [fetchGlaze_eq_andThen, fetchGlaze_eq_andThen]
  refine (fetchGlazeBytes_both h).andThen fun bytes t v h' => ?_
  unfold afterTabBytes
  split
  · next i _ hd =>
    obtain ⟨hglaze, _⟩ := decodeTab_ok hd
    simp only [instrResult, hglaze, if_true]
    refine (copyResult_both (h.advanceTp _) i).mono fun _ w x hok hw => hw.twin ?_ (by decide)
    rw [(copyResult_leaves (.inl ⟨_, hok⟩)).same, State.advanceTp_phase, hp]
    exact List.Subset.refl _
  · exact .raised _ h'.nil
  · exact .raised _ h'.nil

theorem Agree.twin_finish (h : Agree (liveIn .glzRun) s u) : Twin s.finish u.finish := by
  refine Agree.twin (L := liveIn .finished) ⟨by rw [h.same]; rfl, fun g hg => ?_⟩ (List.Subset.refl _) (by decide)
  cases g with
  | payload => exact h.live .payload (by decide)
  | _ => exact absurd hg (by decide)

/-- Two machines that hold the same job take the same step of it. -/
theorem busyResult_both (h : Twin s u) (hb : s.status = .busy) : Both Twin (busyResult s) (busyResult u) := by
  have hagree := h.agree hb
  unfold busyResult
  rw [hagree.phase]
  cases hp : s.phase with
  | hdr => rw [hp] at hagree; exact checkHeader_both hagree
  | seedchk => rw [hp] at hagree; exact checkSeeds_both hagree
  | s1a => rw [hp] at hagree; exact passA_both hagree
  | s1b => rw [hp] at hagree; exact passB_both hagree
  | s2Tail => rw [hp] at hagree; exact readTail_both hagree
  | s2Scan => rw [hp] at hagree; exact scanSentinel_both hagree
  | s2Xor => rw [hp] at hagree; exact xorDecode_both hagree
  | s2Ck => rw [hp] at hagree; exact checksum_both hagree
  | s2Perm => rw [hp] at hagree; exact permuteLeading_both hagree
  | glzHdr => rw [hp] at hagree; exact parseHeader_both hagree
  | glzTab =>
    rw [hp] at hagree
    obtain ⟨htlen, htcount⟩ := hagree.live .table (by decide)
    exact Both.ite (by rw [htlen, htcount]) (fun _ => fetchCodeword_both hagree hp) fun _ =>
      .ok () hagree.twin_closeTable
  | glzRun =>
    rw [hp] at hagree
    refine Both.ite (by rw [hagree.expected (by decide), hagree.loop.wp]) (fun _ => fetchGlaze_both hagree hp)
      fun _ => .ok () hagree.twin_finish
  | finished => exact .ok () h

theorem toOutcome_both {r r' : Result Unit} {t : State} (h : Both Twin r r') (hr : r.toOutcome = .next t) :
    ∃ v, r'.toOutcome = .next v ∧ Twin t v := by
  cases h with
  | ok a h => cases hr; exact ⟨_, rfl, h⟩
  | raised k h => cases hr; exact ⟨_, rfl, h.raise k⟩
  | stuck x => cases hr

/-- With no request of the host waiting, two machines that hold the same job still hold the same after a step. -/
theorem step_both (h : Twin s u) (hhost : s.host = []) {t : State} (hs : step s = .next t) :
    ∃ v, step u = .next v ∧ Twin t v ∧ t.host = [] := by
  by_cases hb : s.status = .busy
  · have hthost : t.host = [] := (hostHasNoMoveWhileBusy s t hb hs).1.trans hhost
    rw [step_of_busy hb] at hs
    rw [step_of_busy (h.status.trans hb)]
    obtain ⟨v, hv, htwin⟩ := toOutcome_both (busyResult_both h hb) hs
    exact ⟨v, hv, htwin, hthost⟩
  · rw [step_of_no_request hb hhost] at hs
    cases hs
    exact ⟨u, step_of_no_request (fun hu => hb (h.status.symm.trans hu)) (h.host.trans hhost), h, hhost⟩

/-- A run of some steps goes on where its first step goes on. -/
theorem run_succ_eq_next {M : Host.Core} {n : Nat} {r t : M.State} :
    M.run (n + 1) r = .next t ↔ ∃ r', M.step r = .next r' ∧ M.run n r' = .next t := by
  rw [Host.Core.run]
  cases M.step r <;> simp

theorem run_both {n : Nat} (h : Twin s u) (hhost : s.host = []) {t : State}
    (hs : Sys2Proof.core.run n s = .next t) : ∃ v, Sys2Proof.core.run n u = .next v ∧ Twin t v := by
  induction n generalizing s u with
  | zero =>
    cases hs
    exact ⟨u, rfl, h⟩
  | succ n ih =>
    obtain ⟨r, hr, hrun⟩ := run_succ_eq_next.mp hs
    obtain ⟨w, hw, htwin, hrhost⟩ := step_both h hhost hr
    obtain ⟨v, hv, hend⟩ := ih htwin hrhost hrun
    exact ⟨v, run_succ_eq_next.mpr ⟨w, hw, hv⟩, hend⟩

/-- A `start` leaves of two machines with the same container, seeds and configuration the same job. -/
theorem twin_start (hcfg : s.cfg = u.cfg) (hnIn : s.nIn = u.nIn) (hhdr : s.hdr = u.hdr) (hbuf : s.buf = u.buf)
    (hseeds : s.seeds = u.seeds) (hhost : s.host = u.host) : Twin s.start u.start where
  same := by rw [State.start, State.start, hcfg, hnIn, hhdr, hbuf, hseeds, hhost]
  live g hg := by cases hg

theorem Twin.collect (h : Twin s u) : u.collect = s.collect := by
  unfold State.collect
  rw [h.status, h.err, h.out]
  cases hs : s.status with
  | done =>
    have hp : Reg.payload ∈ liveRegs s := by
      rw [liveRegs, hs]
      exact List.mem_cons_self
    rw [Agree.expected h hp]
  | idle | busy | failed => rfl
end

/-- Settles O60: the machines hold the same job after `start`, and each step keeps it so. -/
theorem nothingSurvivesADecode : Obligations.NothingSurvivesADecode := by
  unfold Obligations.NothingSurvivesADecode
  intro s u hcfg hnIn hhdr hbuf hseeds hs hu n t hrun
  obtain ⟨v, hv, htwin⟩ := run_both (twin_start hcfg hnIn hhdr hbuf hseeds (hs.trans hu.symm)) hs hrun
  exact ⟨v, hv, htwin.status, htwin.collect, htwin.seeds⟩

end Sys2Proof.Proofs
end

section
/-! SUPPORT. The bits the Bitstream Reader delivers: the held byte from the mask down, a refill at a byte boundary, then
byte by byte (spec/20_memory.md R71, spec/44_bitstream.md R210, R212, R213). -/

namespace Sys2Proof.Proofs
open Sys2Proof Sys2Proof.Machine

section
variable {s t u : State} {v : Byte} {bs : List Byte}

/-! ## One bit -/

/-- Between byte boundaries a bit comes from the held byte. -/
theorem readBit_of_held (h : s.br.mask ≠ 0) : readBit s = deliverBit s := by
  rw [readBit, if_neg h]

/-- The reader with the next byte `v` held and all its bits still to be delivered (R212). -/
def loadByte (v : Byte) (s : State) : State := s.setReader { s.br with bitbuf := v, cur := s.br.cur + 1, mask := 0x80 }

/-- At a byte boundary a bit is read as from the next byte held. -/
theorem readBit_loadByte (hmask : s.br.mask = 0) (hcur : s.br.cur.toNat < s.br.len.toNat)
    (hv : s.bufAt (s.br.base.toNat + s.br.cur.toNat) = some v) : readBit s = readBit (loadByte v s) := by
  have hheld : readBit (loadByte v s) = deliverBit (loadByte v s) := readBit_of_held (by decide : (0x80 : Byte) ≠ 0)
  rw [hheld, readBit, if_pos hmask, if_neg (BitVec.not_le.mpr hcur), readBuf_eq_ok.mpr ⟨hv, rfl⟩, Result.ok_andThen,
    loadByte]

theorem one_shiftLeft_ne_zero {k : Nat} (hk : k < 8) : (1 : Byte) <<< k ≠ 0 := by
  have h : ∀ k : Fin 8, (1 : Byte) <<< k.val ≠ 0 := by decide
  exact h ⟨k, hk⟩

/-- The test of the byte under a mask with bit `k` alone is the test of that bit (R212). -/
theorem and_one_shiftLeft_ne_zero {k : Nat} (hk : k < 8) : (v &&& (1 : Byte) <<< k != 0) = v.toNat.testBit k := by
  have hand : v &&& (1 : Byte) <<< k = if v.getLsbD k then (1 : Byte) <<< k else 0 :=
    BitVec.twoPow_eq 8 k ▸ BitVec.and_twoPow v k
  rw [hand, BitVec.testBit_toNat]
  cases v.getLsbD k with
  | false => rfl
  | true => exact bne_iff_ne.mpr (one_shiftLeft_ne_zero hk)

theorem one_shiftLeft_succ_shiftRight {k : Nat} (hk : k + 1 < 8) :
    (1 : Byte) <<< (k + 1) >>> 1 = (1 : Byte) <<< k := by
  have h : ∀ k : Fin 7, (1 : Byte) <<< (k.val + 1) >>> 1 = (1 : Byte) <<< k.val := by decide
  exact h ⟨k, by omega⟩

/-- With the mask at bit `k`, that bit of the held byte is delivered. -/
theorem readBit_of_mask {k : Nat} (hk : k < 8) (hmask : s.br.mask = (1 : Byte) <<< k) :
    readBit s = .ok (some (s.br.bitbuf.toNat.testBit k)) (s.setReader { s.br with mask := s.br.mask >>> 1 }) := by
  rw [readBit_of_held (hmask ▸ one_shiftLeft_ne_zero hk), deliverBit, hmask, and_one_shiftLeft_ne_zero hk]

/-! ## A run of bits -/

theorem takeBits_succ_of_ok {b : Bool} {n : Nat} {l : List Bool} (hb : readBit s = .ok (some b) u)
    (hl : takeBits n u = .ok (some l) t) : takeBits (n + 1) s = .ok (some (b :: l)) t := by
  simp [takeBits, hb, hl]

/-- Bits taken in two runs are those taken in one (R213). -/
theorem takeBits_add_of_ok {m n : Nat} {l l' : List Bool} (hl : takeBits m s = .ok (some l) u)
    (hl' : takeBits n u = .ok (some l') t) : takeBits (m + n) s = .ok (some (l ++ l')) t := by
  induction m generalizing s l with
  | zero =>
    rw [takeBits, Result.ok.injEq, Option.some.injEq] at hl
    obtain ⟨rfl, rfl⟩ := hl
    rwa [Nat.zero_add]
  | succ m ih =>
    rw [takeBits] at hl
    obtain ⟨b, w, hb, hl⟩ := Result.andThen_eq_ok.mp hl
    cases b with
    | none => simp at hl
    | some b =>
      obtain ⟨rest, x, hrest, hx⟩ := Result.andThen_eq_ok.mp hl
      rw [Result.ok.injEq, Option.map_eq_some_iff] at hx
      obtain ⟨⟨rest, rfl, rfl⟩, rfl⟩ := hx
      rw [Nat.succ_add]
      exact takeBits_succ_of_ok hb (ih hrest)

/-- The held bits at and below the mask come most significant first, and leave the reader at a byte boundary (R71). -/
theorem takeBits_of_mask {k : Nat} (hk : k < 8) (hmask : s.br.mask = (1 : Byte) <<< k) :
    takeBits (k + 1) s = .ok (some (bitsOf (k + 1) s.br.bitbuf.toNat)) (s.setReader { s.br with mask := 0 }) := by
  induction k generalizing s with
  | zero =>
    refine takeBits_succ_of_ok (readBit_of_mask hk hmask) ?_
    rw [hmask]
    rfl
  | succ k ih =>
    refine takeBits_succ_of_ok (readBit_of_mask hk hmask) ?_
    rw [hmask, one_shiftLeft_succ_shiftRight hk]
    exact ih (by omega) rfl

/-! ## Whole bytes -/

/-- The reader is at a byte boundary and the bytes it loads next are `bs`. -/
structure BytesAhead (s : State) (bs : List Byte) : Prop where
  boundary : s.br.mask = 0
  room : s.br.cur.toNat + bs.length ≤ s.br.len.toNat
  bytes : ∀ j, j < bs.length → s.bufAt (s.br.base.toNat + s.br.cur.toNat + j) = bs[j]?

theorem BytesAhead.cur_lt (h : BytesAhead s (v :: bs)) : s.br.cur.toNat < s.br.len.toNat := by
  have hroom := h.room
  rw [List.length_cons] at hroom
  omega

/-- The reader past the byte `v`, at the next byte boundary. -/
def passByte (v : Byte) (s : State) : State := s.setReader { s.br with bitbuf := v, cur := s.br.cur + 1, mask := 0 }

theorem takeBits_byte (h : BytesAhead s (v :: bs)) : takeBits 8 s = .ok (some (bitsOf 8 v.toNat)) (passByte v s) := by
  have hv : s.bufAt (s.br.base.toNat + s.br.cur.toNat) = some v := h.bytes 0 (Nat.succ_pos _)
  have hload : takeBits 8 s = takeBits 8 (loadByte v s) := by
    rw [takeBits, takeBits, readBit_loadByte h.boundary h.cur_lt hv]
  rw [hload]
  exact takeBits_of_mask (k := 7) (s := loadByte v s) (by decide) rfl

theorem passByte_cur (h : BytesAhead s (v :: bs)) : (passByte v s).br.cur.toNat = s.br.cur.toNat + 1 := by
  have hlt := h.cur_lt
  have hcur : (passByte v s).br.cur = s.br.cur + 1 := rfl
  bv_omega

theorem BytesAhead.passByte (h : BytesAhead s (v :: bs)) : BytesAhead (passByte v s) bs where
  boundary := rfl
  room := by
    have hroom := h.room
    rw [List.length_cons] at hroom
    rw [passByte_cur h]
    show _ ≤ s.br.len.toNat
    omega
  bytes j hj := by
    have hbyte := h.bytes (j + 1) (Nat.succ_lt_succ hj)
    rw [List.getElem?_cons_succ] at hbyte
    rw [passByte_cur h, ← hbyte]
    show s.bufAt _ = _
    congr 1
    show s.br.base.toNat + _ + _ = _
    omega

/-- The bits of the bytes ahead are delivered byte by byte, and the reader ends past the last one (R71, R213). -/
theorem takeBits_bytes (h : BytesAhead s bs) :
    ∃ t, takeBits (8 * bs.length) s = .ok (some (bitsOfBytes bs)) t ∧
      t.br.cur.toNat = s.br.cur.toNat + bs.length ∧ t.br.mask = 0 := by
  induction bs generalizing s with
  | nil => exact ⟨s, rfl, rfl, h.boundary⟩
  | cons v bs ih =>
    obtain ⟨t, ht, hcur, hmask⟩ := ih h.passByte
    refine ⟨t, ?_, ?_, hmask⟩
    · rw [List.length_cons, Nat.mul_succ, Nat.add_comm]
      exact takeBits_add_of_ok (takeBits_byte h) ht
    · rw [hcur, passByte_cur h, List.length_cons]
      omega

/-- The value read is that of the bits taken (R213). -/
theorem readBits_of_takeBits {n : Nat} {l : List Bool} (h : takeBits n s = .ok (some l) t) :
    readBits n s = .ok (some (bitsToNat l)) t := by
  rw [readBits, h, Result.ok_andThen, Option.map_some]
end

/-- Settles O20: by induction on the bytes, each of which is held and delivered from its mask 0x80 down. -/
theorem bitsComeMostSignificantFirst : Obligations.BitsComeMostSignificantFirst := by
  unfold Obligations.BitsComeMostSignificantFirst
  intro s bs hmask hroom hbytes
  obtain ⟨t, ht, hcur, hmask'⟩ := takeBits_bytes ⟨hmask, hroom, hbytes⟩
  exact ⟨t, ht, readBits_of_takeBits ht, hcur, hmask', takeBits_leaves (.inl ⟨_, ht⟩)⟩

end Sys2Proof.Proofs
end

section
/-! SUPPORT. The two codes as encoder and decoder: a codeword is one of seven classes with its payload, or the capped form;
the decoder finds the codeword that stands at the front of some bits, and no other words decode to it
(spec/30_encoding.md R110, R112). -/

namespace Sys2Proof.Proofs
open Sys2Proof Sys2Proof.Machine Sys2Proof.Laws

/-! ## Bits and values -/

theorem bitsToNat_append (l : List Bool) (b : Bool) : bitsToNat (l ++ [b]) = 2 * bitsToNat l + b.toNat := by
  rw [bitsToNat, List.foldl_append]
  rfl

/-- The bits of a value end with its lowest one. -/
theorem bitsOf_succ_eq_append (k v : Nat) : bitsOf (k + 1) v = bitsOf k (v / 2) ++ [v.testBit 0] := by
  induction k generalizing v with
  | zero => rfl
  | succ k ih =>
    rw [bitsOf, ih, bitsOf, List.cons_append, Nat.testBit_succ]

/-- `k` bits hold a value below `2^k` (R71). -/
theorem bitsToNat_bitsOf {k v : Nat} (hv : v < 2 ^ k) : bitsToNat (bitsOf k v) = v := by
  induction k generalizing v with
  | zero =>
    obtain rfl : v = 0 := by omega
    rfl
  | succ k ih =>
    rw [bitsOf_succ_eq_append, bitsToNat_append, ih (by omega), Nat.testBit_zero]
    rcases Nat.mod_two_eq_zero_or_one v with h | h <;> simp [h] <;> omega

theorem bitsToNat_lt (l : List Bool) : bitsToNat l < 2 ^ l.length := by
  induction l using List.reverseRecOn with
  | nil => exact Nat.one_pos
  | append_singleton l b ih =>
    rw [bitsToNat_append, List.length_append, List.length_singleton, Nat.pow_succ]
    have hb := Bool.toNat_lt b
    omega

/-- Bits are those of their value. -/
theorem bitsOf_bitsToNat (l : List Bool) : bitsOf l.length (bitsToNat l) = l := by
  induction l using List.reverseRecOn with
  | nil => rfl
  | append_singleton l b ih =>
    have hb := Bool.toNat_lt b
    have hhalf : bitsToNat (l ++ [b]) / 2 = bitsToNat l := by
      rw [bitsToNat_append]
      omega
    have hlow : (bitsToNat (l ++ [b])).testBit 0 = b := by
      rw [bitsToNat_append]
      cases b <;> simp
    rw [List.length_append, List.length_singleton, bitsOf_succ_eq_append, hhalf, hlow, ih]

/-! ## The codewords and their patterns -/

theorem encode_pfxOfClass {k p : Nat} (hk : k ≤ 6) (hp : p < 2 ^ k) :
    encode (pfxOfClass k p) = .bits (codeword k p) := by
  have hpay : (BitVec.ofNat k p).toNat = p := by rw [BitVec.toNat_ofNat, Nat.mod_eq_of_lt hp]
  interval_cases k
  · rfl
  all_goals exact congrArg (fun q => Code.bits (codeword _ q)) hpay

/-- A codeword is one of the seven classes with its payload, or the capped form (R110). -/
theorem encode_eq_bits {i : Instr} {w : List Bool} (h : encode i = .bits w) :
    (i = .pfxz ∧ w = List.replicate Params.prefixCap false) ∨
      ∃ k p, k ≤ 6 ∧ p < 2 ^ k ∧ i = pfxOfClass k p ∧ w = codeword k p := by
  cases i with
  | lit | rep _ | cpy _ _ | cpyd _ | cpyw _ _ | run _ | runx => cases h
  | pfxz => exact .inl ⟨rfl, (Code.bits.inj h).symm⟩
  | pfx0 => exact .inr ⟨0, 0, by decide, by decide, rfl, (Code.bits.inj h).symm⟩
  | pfx1 p | pfx2 p | pfx3 p | pfx4 p | pfx5 p | pfx6 p =>
    exact .inr ⟨_, p.toNat, by decide, p.isLt, by simp [pfxOfClass], (Code.bits.inj h).symm⟩

/-! ## Decoding an encoding -/

/-- The decoder counts the zeros in front of a codeword (spec/45_code_table.md R222). -/
theorem decodeBitsAfter_zeros {k n : Nat} (h : k + n < Params.prefixCap) (l : List Bool) :
    decodeBitsAfter k (List.replicate n false ++ l) = decodeBitsAfter (k + n) l := by
  induction n generalizing k with
  | zero => rfl
  | succ n ih =>
    have hk : k + 1 ≠ Params.prefixCap := by omega
    rw [List.replicate_succ, List.cons_append, decodeBitsAfter, if_neg hk, ih (by omega)]
    congr 1
    omega

/-- After `k` zeros and a 1 come the `k` bits of the payload (R222). -/
theorem decodeBitsAfter_one {k : Nat} {pay : List Bool} (h : pay.length = k) (rest : List Bool) :
    decodeBitsAfter k (true :: (pay ++ rest)) = .ok (pfxOfClass k (bitsToNat pay), rest) := by
  have hlen : ¬ (pay ++ rest).length < k := by
    rw [List.length_append]
    omega
  rw [decodeBitsAfter, if_neg hlen, List.take_left' h, List.drop_left' h]

theorem decodeBits_codeword {k p : Nat} (hk : k ≤ 6) (hp : p < 2 ^ k) (rest : List Bool) :
    decodeBits (codeword k p ++ rest) = .ok (pfxOfClass k p, rest) := by
  have hcap : 0 + k < Params.prefixCap := by
    rw [Params.prefixCap]
    omega
  rw [decodeBits, codeword, List.append_assoc, decodeBitsAfter_zeros hcap, Nat.zero_add, List.cons_append,
    decodeBitsAfter_one (bitsOf_length k p), bitsToNat_bitsOf hp]

/-- The bits of a codeword, whatever follows them, decode to it. -/
theorem decodeBits_encode {i : Instr} {w : List Bool} (h : encode i = .bits w) (rest : List Bool) :
    decodeBits (w ++ rest) = .ok (i, rest) := by
  rcases encode_eq_bits h with ⟨rfl, rfl⟩ | ⟨k, p, hk, hp, rfl, rfl⟩
  · rfl
  · exact decodeBits_codeword hk hp rest

/-- The bytes of a Glaze instruction, whatever follows them, decode to it (R112). -/
theorem decodeTab_encode {i : Instr} {w : List Byte} (h : encode i = .tab w) (rest : List Byte) :
    decodeTab (w ++ rest) = .ok (i, rest) := by
  cases i with
  | lit | rep _ | cpy _ _ | cpyd _ | cpyw _ _ | run _ | runx =>
    cases h
    rfl
  | pfx0 | pfx1 _ | pfx2 _ | pfx3 _ | pfx4 _ | pfx5 _ | pfx6 _ | pfxz => cases h

/-! ## Encoding what was decoded -/

/-- Bits that decode after `k` zeros are what is left of a codeword's pattern, and the rest. -/
theorem decodeBitsAfter_eq_ok {bits rest : List Bool} {k : Nat} {i : Instr} (hk : k ≤ 6)
    (h : decodeBitsAfter k bits = .ok (i, rest)) :
    ∃ w, encode i = .bits (List.replicate k false ++ w) ∧ bits = w ++ rest := by
  induction bits generalizing k with
  | nil => cases h
  | cons b bits ih =>
    cases b with
    | true =>
      rw [decodeBitsAfter] at h
      split at h
      · cases h
      · next hlen =>
        cases h
        have htake : (bits.take k).length = k := List.length_take_of_le (Nat.le_of_not_lt hlen)
        have hpay := bitsOf_bitsToNat (bits.take k)
        have hlt := bitsToNat_lt (bits.take k)
        rw [htake] at hpay hlt
        refine ⟨true :: bits.take k, ?_, ?_⟩
        · rw [encode_pfxOfClass hk hlt, codeword, hpay]
        · rw [List.cons_append, List.take_append_drop]
    | false =>
      rw [decodeBitsAfter] at h
      split at h
      · next hcap =>
        cases h
        obtain rfl : k = 6 := Nat.succ.inj hcap
        exact ⟨[false], rfl, rfl⟩
      · next hcap =>
        have hk' : k + 1 ≤ 6 := Nat.lt_of_le_of_ne hk fun he => hcap (he ▸ rfl)
        obtain ⟨w, hw, rfl⟩ := ih hk' h
        refine ⟨false :: w, ?_, rfl⟩
        rw [hw, List.replicate_succ', List.append_assoc]
        rfl

/-- Bits that decode begin with the codeword they decode to (R110). -/
theorem decodeBits_eq_ok {bits rest : List Bool} {i : Instr} (h : decodeBits bits = .ok (i, rest)) :
    ∃ w, encode i = .bits w ∧ bits = w ++ rest :=
  decodeBitsAfter_eq_ok (k := 0) (Nat.zero_le 6) h

theorem eq_ofNat_of_toNat_eq {op : Byte} {n : Nat} (h : op.toNat = n) : op = BitVec.ofNat 8 n := by
  rw [← h, BitVec.ofNat_toNat, BitVec.setWidth_eq]

/-- Bytes that decode begin with the bytes of the instruction they decode to (R112). -/
theorem decodeTab_eq_ok {bytes rest : List Byte} {i : Instr} (h : decodeTab bytes = .ok (i, rest)) :
    ∃ w, encode i = .tab w ∧ bytes = w ++ rest := by
  unfold decodeTab at h
  split at h
  · cases h
  · split at h <;> cases h <;> next hop => exact ⟨_, rfl, by rw [eq_ofNat_of_toNat_eq hop]; rfl⟩

/-! ## Both codes -/

theorem append_eq_some {a b c : Code} :
    a.append b = some c ↔
      (∃ x y, a = .tab x ∧ b = .tab y ∧ c = .tab (x ++ y)) ∨
        ∃ x y, a = .bits x ∧ b = .bits y ∧ c = .bits (x ++ y) := by
  cases a <;> cases b <;> simp [Code.append, eq_comm]

/-- Settles O23: a codeword's zeros are counted and its payload read back, and an opcode byte finds its operands. -/
theorem decodeOfEncodeAgrees : Obligations.DecodeOfEncodeAgrees := by
  unfold Obligations.DecodeOfEncodeAgrees
  intro i rest c _ h
  rcases append_eq_some.mp h with ⟨w, r, hw, rfl, rfl⟩ | ⟨w, r, hw, rfl, rfl⟩
  · rw [decode, decodeTab_encode hw]
  · rw [decode, decodeBits_encode hw]

/-- Settles O24: by induction on the bits, of which each decides how the pattern goes on; for bytes, by opcode. -/
theorem encodeOfDecodeAgrees : Obligations.EncodeOfDecodeAgrees := by
  unfold Obligations.EncodeOfDecodeAgrees
  intro i rest c h
  cases c with
  | tab bytes =>
    rw [decode] at h
    split at h
    · next j r hd =>
      cases h
      obtain ⟨w, hw, rfl⟩ := decodeTab_eq_ok hd
      rw [hw, Code.append]
    · cases h
  | bits bits =>
    rw [decode] at h
    split at h
    · next j r hd =>
      cases h
      obtain ⟨w, hw, rfl⟩ := decodeBits_eq_ok hd
      rw [hw, Code.append]
    · cases h

/-! ## The codewords as a whole -/

/-- From `k` zeros on, `13 - k` bits hold a whole codeword (R110). -/
theorem decodeBitsAfter_total {bits : List Bool} {k : Nat} (hk : k ≤ 6) (hlen : 13 ≤ bits.length + k) :
    ∃ i rest, decodeBitsAfter k bits = .ok (i, rest) := by
  induction bits generalizing k with
  | nil =>
    rw [List.length_nil] at hlen
    omega
  | cons b bits ih =>
    rw [List.length_cons] at hlen
    cases b with
    | true =>
      have hpay : ¬ bits.length < k := by omega
      rw [decodeBitsAfter, if_neg hpay]
      exact ⟨_, _, rfl⟩
    | false =>
      rw [decodeBitsAfter]
      split
      · exact ⟨_, _, rfl⟩
      · next hcap =>
        have hk' : k + 1 ≤ 6 := Nat.lt_of_le_of_ne hk fun he => hcap (he ▸ rfl)
        exact ih hk' (by omega)

/-- No codeword is the beginning of another: the decoder stops at the end of the first (R110). -/
theorem eq_of_encode_prefix {i j : Instr} {w v : List Bool} (hi : encode i = .bits w) (hj : encode j = .bits v)
    (h : w <+: v) : i = j := by
  obtain ⟨x, rfl⟩ := h
  have hij := (decodeBits_encode hi x).symm.trans (List.append_nil (w ++ x) ▸ decodeBits_encode hj [])
  cases hij
  rfl

/-! ## The entries -/

/-- The leading 1 of an entry and its payload below it add up (R110). -/
theorem or_payload {k : Nat} (hk : k ≤ 6) (p : BitVec k) :
    BitVec.ofNat 8 (2 ^ k) ||| p.setWidth 8 = BitVec.ofNat 8 (2 ^ k + p.toNat) := by
  have hpow : 2 ^ k ≤ 64 := Nat.pow_le_pow_right (by decide) hk
  have hp := p.isLt
  have hor := Nat.two_pow_add_eq_or_of_lt hp 1
  rw [Nat.mul_one] at hor
  apply BitVec.eq_of_toNat_eq
  rw [BitVec.toNat_or, BitVec.toNat_setWidth, BitVec.toNat_ofNat, BitVec.toNat_ofNat, Nat.mod_eq_of_lt (by omega),
    Nat.mod_eq_of_lt (by omega), Nat.mod_eq_of_lt (by omega), hor]

/-- A codeword of class `k` decodes to the numbers from `2^k` to `2^(k+1) - 1`, in the order of its payload (R110). -/
theorem entryValue_pfxOfClass {k p : Nat} (hk : k ≤ 6) (hp : p < 2 ^ k) :
    entryValue (pfxOfClass k p) = some (BitVec.ofNat 8 (2 ^ k + p)) := by
  have hor := or_payload hk (BitVec.ofNat k p)
  rw [BitVec.toNat_ofNat, Nat.mod_eq_of_lt hp] at hor
  interval_cases k
  · obtain rfl : p = 0 := Nat.lt_one_iff.mp hp
    rfl
  all_goals exact congrArg some hor

/-- The codeword that decodes to a value: its class is the place of the leading 1, its payload the bits below (R110). -/
def codewordOf (v : Nat) : Instr := if v = 0 then .pfxz else pfxOfClass v.log2 (v - 2 ^ v.log2)

theorem codewordOf_add {k p : Nat} (hp : p < 2 ^ k) : codewordOf (2 ^ k + p) = pfxOfClass k p := by
  have hne : 2 ^ k + p ≠ 0 := by omega
  have hlog : (2 ^ k + p).log2 = k := (Nat.log2_eq_iff hne).mpr ⟨by omega, by omega⟩
  rw [codewordOf, if_neg hne, hlog, Nat.add_sub_cancel_left]

/-- An instruction with an entry is the capped form or of one of the seven classes. -/
theorem entryValue_eq_some {i : Instr} {v : Byte} (h : entryValue i = some v) :
    (i = .pfxz ∧ v = 0) ∨ ∃ k p, k ≤ 6 ∧ p < 2 ^ k ∧ i = pfxOfClass k p ∧ v.toNat = 2 ^ k + p := by
  have hbits : ∃ w, encode i = .bits w := by
    cases i with
    | lit | rep _ | cpy _ _ | cpyd _ | cpyw _ _ | run _ | runx => cases h
    | pfx0 | pfx1 _ | pfx2 _ | pfx3 _ | pfx4 _ | pfx5 _ | pfx6 _ | pfxz => exact ⟨_, rfl⟩
  obtain ⟨w, hw⟩ := hbits
  rcases encode_eq_bits hw with ⟨rfl, -⟩ | ⟨k, p, hk, hp, rfl, -⟩
  · exact .inl ⟨rfl, (Option.some.inj h).symm⟩
  · rw [entryValue_pfxOfClass hk hp] at h
    cases h
    have hpow : 2 ^ k ≤ 64 := Nat.pow_le_pow_right (by decide) hk
    exact .inr ⟨k, p, hk, hp, rfl, by rw [BitVec.toNat_ofNat, Nat.mod_eq_of_lt (by omega)]⟩

/-- No codeword decodes to 128 or more (R110, spec/45_code_table.md R227). -/
theorem entryValue_lt {i : Instr} {v : Byte} (h : entryValue i = some v) : v.toNat < 128 := by
  rcases entryValue_eq_some h with ⟨-, rfl⟩ | ⟨k, p, hk, hp, -, hv⟩
  · decide
  · have hpow : 2 ^ k ≤ 64 := Nat.pow_le_pow_right (by decide) hk
    omega

/-- A value has one codeword at most. -/
theorem eq_codewordOf {i : Instr} {v : Byte} (h : entryValue i = some v) : i = codewordOf v.toNat := by
  rcases entryValue_eq_some h with ⟨rfl, rfl⟩ | ⟨k, p, hk, hp, rfl, hv⟩
  · rfl
  · rw [hv, codewordOf_add hp]

/-- Every value below 128 has a codeword. -/
theorem entryValue_codewordOf {v : Byte} (hv : v.toNat < 128) : entryValue (codewordOf v.toNat) = some v := by
  by_cases hzero : v.toNat = 0
  · rw [codewordOf, if_pos hzero, eq_ofNat_of_toNat_eq hzero]
    rfl
  · have hlow : 2 ^ v.toNat.log2 ≤ v.toNat := Nat.log2_self_le hzero
    have hhigh : v.toNat < 2 ^ (v.toNat.log2 + 1) := Nat.lt_log2_self
    have hk : v.toNat.log2 ≤ 6 := Nat.le_of_lt_succ ((Nat.log2_lt hzero).mpr hv)
    rw [codewordOf, if_neg hzero, entryValue_pfxOfClass hk (by omega), Nat.add_sub_cancel' hlow, BitVec.ofNat_toNat,
      BitVec.setWidth_eq]

/-- Settles O25: the decoder stops at the end of every codeword and within 13 bits, and the classes share the values out
by the place of their leading 1. -/
theorem prefixCodeIsCompleteAndPrefixFree : Obligations.PrefixCodeIsCompleteAndPrefixFree := by
  unfold Obligations.PrefixCodeIsCompleteAndPrefixFree
  refine ⟨fun bits hlen => ?_, fun i j w v => eq_of_encode_prefix, fun v hv => ?_, fun i v => entryValue_lt⟩
  · obtain ⟨i, rest, h⟩ := decodeBitsAfter_total (Nat.zero_le 6) hlen
    obtain ⟨w, hw, hbits⟩ := decodeBits_eq_ok h
    exact ⟨i, w, rest, h, hw, hbits⟩
  · exact ⟨_, entryValue_codewordOf hv, fun i hi => eq_codewordOf hi⟩

/-- Settles O26: the words written out evaluate. -/
theorem sampleWordsDecode : Obligations.SampleWordsDecode := by
  unfold Obligations.SampleWordsDecode
  exact ⟨rfl, rfl, rfl, rfl, rfl, rfl, rfl, rfl⟩

end Sys2Proof.Proofs
end

section
/-! SUPPORT. Only the header check reads `HDR`, and it reads bytes 0 to 7 (spec/30_encoding.md R101): every other
operation of a decode runs in a machine with another `HDR` as it runs in the machine itself. -/

namespace Sys2Proof.Proofs
open Sys2Proof Sys2Proof.Machine

/-- The same machine with another `HDR`. -/
def setHdr (m : Memory) (s : State) : State := { s with hdr := m }

/-- An operation's second result is its first, in the machine whose `HDR` is `m`. -/
inductive Shadowed (m : Memory) {α : Type} : Result α → Result α → Prop where
  | ok (a : α) (t : State) : Shadowed m (.ok a t) (.ok a (setHdr m t))
  | raised (k : ErrKind) (t : State) : Shadowed m (.raised k t) (.raised k (setHdr m t))
  | stuck (x : Fault) : Shadowed m (.stuck x) (.stuck x)

section
variable {m : Memory}

section
variable {α β : Type} {r r' r₂ r₂' : Result α} {f f' : α → State → Result β}

theorem Shadowed.andThen_of_ok (h : Shadowed m r r')
    (hf : ∀ a t, r = .ok a t → Shadowed m (f a t) (f' a (setHdr m t))) :
    Shadowed m (r.andThen f) (r'.andThen f') := by
  cases h with
  | ok a t => exact hf a t rfl
  | raised k t => exact .raised k t
  | stuck x => exact .stuck x

theorem Shadowed.andThen (h : Shadowed m r r') (hf : ∀ a t, Shadowed m (f a t) (f' a (setHdr m t))) :
    Shadowed m (r.andThen f) (r'.andThen f') :=
  h.andThen_of_ok fun a t _ => hf a t

theorem Shadowed.ite {p : Prop} [Decidable p] (ht : Shadowed m r r') (he : Shadowed m r₂ r₂') :
    Shadowed m (if p then r else r₂) (if p then r' else r₂') := by
  by_cases hp : p
  · rwa [if_pos hp, if_pos hp]
  · rwa [if_neg hp, if_neg hp]
end

/-- Where the operation goes on, so does the step of the other machine, to the same state but for `HDR`. -/
theorem Shadowed.toOutcome {r r' : Result Unit} {t : State} (h : Shadowed m r r') (hr : r.toOutcome = .next t) :
    r'.toOutcome = .next (setHdr m t) := by
  cases h with
  | ok a u | raised k u =>
    cases hr
    rfl
  | stuck x => cases hr

variable (m) (s : State)

@[simp] theorem setHdr_hdr : (setHdr m s).hdr = m := rfl
@[simp] theorem setHdr_status : (setHdr m s).status = s.status := rfl
@[simp] theorem setHdr_phase : (setHdr m s).phase = s.phase := rfl
@[simp] theorem setHdr_prng : (setHdr m s).prng = s.prng := rfl
@[simp] theorem setHdr_glz : (setHdr m s).glz = s.glz := rfl
@[simp] theorem setHdr_bufAt : (setHdr m s).bufAt = s.bufAt := rfl
@[simp] theorem setHdr_ord : (setHdr m s).ord = s.ord := rfl
@[simp] theorem setHdr_tab : (setHdr m s).tab = s.tab := rfl
@[simp] theorem setHdr_out : (setHdr m s).out = s.out := rfl

/-! ## `BUF` -/

theorem readBuf_setHdr (a : Nat) : Shadowed m (readBuf a s) (readBuf a (setHdr m s)) := by
  rw [readBuf, readBuf, setHdr_bufAt]
  cases s.bufAt a with
  | none => exact .stuck _
  | some b => exact .ok b s

theorem writeBuf_setHdr (a : Nat) (b : Byte) : Shadowed m (writeBuf a b s) (writeBuf a b (setHdr m s)) :=
  .ite (.ok () (s.setBuf a b)) (.stuck _)

theorem readBuf32_setHdr (a : Nat) : Shadowed m (readBuf32 a s) (readBuf32 a (setHdr m s)) := by
  rw [readBuf32, readBuf32, setHdr_bufAt]
  cases read32 s.bufAt a with
  | none => exact .stuck _
  | some w => exact .ok w s

/-! ## The Permutation Engine -/

theorem buildOrder_setHdr (n : Nat) : Shadowed m (buildOrder n s) (buildOrder n (setHdr m s)) := by
  rw [buildOrder, buildOrder, setHdr_prng]
  cases drawOrder n s.prng (List.range n) with
  | none => exact .stuck _
  | some d => exact .ok () _

theorem swapBits_setHdr (start rem e0 e1 : Nat) :
    Shadowed m (swapBits start rem e0 e1 s) (swapBits start rem e0 e1 (setHdr m s)) :=
  .ite (.raised _ s) <|
    (readBuf_setHdr m s _).andThen fun _ t => (readBuf_setHdr m t _).andThen fun _ t =>
      .ite (.ok () t) <|
        (writeBuf_setHdr m t _ _).andThen fun _ t => (readBuf_setHdr m t _).andThen fun _ t =>
          writeBuf_setHdr m t _ _

theorem walkFrom_setHdr (start rem pairs i : Nat) :
    Shadowed m (walkFrom start rem pairs i s) (walkFrom start rem pairs i (setHdr m s)) := by
  induction pairs generalizing i s with
  | zero => exact .ok () _
  | succ pairs ih =>
    rw [walkFrom, walkFrom, setHdr_ord]
    split
    · exact (swapBits_setHdr m _ _ _ _ _).andThen fun _ t => ih t _
    · exact .stuck _

theorem permuteSlice_setHdr (base total slice pos : Nat) :
    Shadowed m (permuteSlice base total slice pos s) (permuteSlice base total slice pos (setHdr m s)) :=
  (buildOrder_setHdr m _ _).andThen fun _ _ => walkFrom_setHdr m _ _ _ _ _

theorem sliceLoop_setHdr (base total slice fuel pos : Nat) :
    Shadowed m (sliceLoop base total slice fuel pos s) (sliceLoop base total slice fuel pos (setHdr m s)) := by
  induction fuel generalizing pos s with
  | zero => exact .ok () s
  | succ fuel ih => exact .ite (.ok () _) ((permuteSlice_setHdr m s _ _ _ _).andThen fun _ t => ih t _)

theorem permuteChunks_setHdr (base total slice : Nat) (k a : Word) :
    Shadowed m (permuteChunks base total slice k a s) (permuteChunks base total slice k a (setHdr m s)) :=
  .ite (.raised _ _) <| .ite (.raised _ _) (sliceLoop_setHdr m _ _ _ _ _ _)

/-! ## Stage-1 and Stage-2 -/

theorem passA_setHdr : Shadowed m (passA s) (passA (setHdr m s)) :=
  (permuteChunks_setHdr m s _ _ _ _ _).andThen fun _ t => .ok () (t.enter .s1b)

theorem passBWord_setHdr (k : Nat) : Shadowed m (passBWord k s) (passBWord k (setHdr m s)) :=
  (readBuf_setHdr m s _).andThen fun _ t => (readBuf_setHdr m t _).andThen fun _ t =>
    (writeBuf_setHdr m (t.setPrng t.prng.draw15.2) _ _).andThen fun _ t => writeBuf_setHdr m t _ _

theorem passBFrom_setHdr (words k : Nat) : Shadowed m (passBFrom words k s) (passBFrom words k (setHdr m s)) := by
  induction words generalizing k s with
  | zero => exact .ok () s
  | succ words ih => exact (passBWord_setHdr m s k).andThen fun _ t => ih t _

theorem passB_setHdr : Shadowed m (passB s) (passB (setHdr m s)) :=
  (passBFrom_setHdr m (s.setPrng _) _ _).andThen fun _ t => .ok () (t.enter .s2Tail)

theorem readTail_setHdr : Shadowed m (readTail s) (readTail (setHdr m s)) :=
  .ite (.raised _ _) <|
    (readBuf32_setHdr m _ _).andThen fun _ t => (readBuf32_setHdr m t _).andThen fun _ t =>
      (readBuf32_setHdr m t _).andThen fun _ _ => .ok () _

theorem scanBelow_setHdr (i : Nat) : Shadowed m (scanBelow i s) (scanBelow i (setHdr m s)) := by
  induction i generalizing s with
  | zero => exact .raised _ s
  | succ i ih => exact (readBuf_setHdr m s i).andThen fun _ t => .ite (.ok i t) (ih t)

theorem scanSentinel_setHdr : Shadowed m (scanSentinel s) (scanSentinel (setHdr m s)) :=
  (scanBelow_setHdr m s _).andThen fun _ _ => .ok () _

theorem rotateIfDue_setHdr : rotateIfDue (setHdr m s) = setHdr m (rotateIfDue s) := by
  unfold rotateIfDue
  rw [apply_ite (setHdr m)]
  rfl

theorem xorByte_setHdr (i : Nat) : Shadowed m (xorByte i s) (xorByte i (setHdr m s)) :=
  (readBuf_setHdr m s i).andThen fun _ t =>
    (writeBuf_setHdr m (t.setPrng t.prng.draw8.2) _ _).andThen fun _ t => by
      show Shadowed m _ (.ok () (rotateIfDue (setHdr m { t with s2 := { t.s2 with count := t.s2.count + 1 } })))
      rw [rotateIfDue_setHdr]
      exact .ok () _

theorem xorFrom_setHdr (bytes i : Nat) : Shadowed m (xorFrom bytes i s) (xorFrom bytes i (setHdr m s)) := by
  induction bytes generalizing i s with
  | zero => exact .ok () s
  | succ bytes ih => exact (xorByte_setHdr m s i).andThen fun _ t => ih t _

theorem xorDecode_setHdr : Shadowed m (xorDecode s) (xorDecode (setHdr m s)) :=
  (xorFrom_setHdr m _ _ _).andThen fun _ t => .ok () (t.enter .s2Ck)

theorem foldFrom_setHdr (words j : Nat) : Shadowed m (foldFrom words j s) (foldFrom words j (setHdr m s)) := by
  induction words generalizing j s with
  | zero => exact .ok () s
  | succ words ih => exact (readBuf32_setHdr m s _).andThen fun _ _ => ih _ _

theorem checksum_setHdr : Shadowed m (checksum s) (checksum (setHdr m s)) :=
  (writeBuf_setHdr m s _ _).andThen fun _ _ => (foldFrom_setHdr m _ _ _).andThen fun _ t =>
    .ite (.raised _ t) (.ok () (t.enter .s2Perm))

theorem permuteLeading_setHdr : Shadowed m (permuteLeading s) (permuteLeading (setHdr m s)) :=
  (permuteChunks_setHdr m s _ _ _ _ _).andThen fun _ t => .ok () (t.enter .glzHdr)

/-! ## The header parse and the Bitstream Reader -/

theorem lengthPrefix_setHdr (pos : Nat) : Shadowed m (lengthPrefix pos s) (lengthPrefix pos (setHdr m s)) :=
  .ite (.raised _ s) (readBuf32_setHdr m s pos)

theorem openTable_setHdr : Shadowed m (openTable s) (openTable (setHdr m s)) :=
  .ite (.raised _ s) <| (readBuf32_setHdr m s 8).andThen fun _ _ => .ite (.raised _ _) (.ok () _)

theorem parseHeader_setHdr : Shadowed m (parseHeader s) (parseHeader (setHdr m s)) :=
  .ite (.raised _ s) <|
    (readBuf32_setHdr m s 0).andThen fun _ t => (readBuf32_setHdr m t 4).andThen fun _ _ =>
      .ite (.raised _ _) <| .ite (.raised _ _) <| .ite (.raised _ _) <|
        (lengthPrefix_setHdr m _ _).andThen fun _ _ => .ite (.raised _ _) <|
          (lengthPrefix_setHdr m _ _).andThen fun _ _ => .ite (.raised _ _) (openTable_setHdr m _)

theorem readBit_setHdr : Shadowed m (readBit s) (readBit (setHdr m s)) :=
  .ite (.ite (.ok none s) <| (readBuf_setHdr m s _).andThen fun _ _ => .ok _ _) (.ok _ _)

theorem takeBits_setHdr (n : Nat) : Shadowed m (takeBits n s) (takeBits n (setHdr m s)) := by
  induction n generalizing s with
  | zero => exact .ok _ s
  | succ n ih =>
    refine (readBit_setHdr m s).andThen fun b t => ?_
    cases b with
    | none => exact .ok none t
    | some b => exact (ih t).andThen fun _ t => .ok _ t

theorem fetchPrefix_setHdr (n : Nat) : Shadowed m (fetchPrefix n s) (fetchPrefix n (setHdr m s)) := by
  induction n generalizing s with
  | zero => exact .ok _ s
  | succ n ih =>
    refine (readBit_setHdr m s).andThen fun b t => ?_
    match b with
    | none => exact .ok none t
    | some true => exact .ok _ t
    | some false => exact (ih t.countZero).andThen fun _ t => .ok _ t

theorem fetchCodewordBits_setHdr : Shadowed m (fetchCodewordBits s) (fetchCodewordBits (setHdr m s)) := by
  refine (fetchPrefix_setHdr m _ _).andThen fun pre t => ?_
  cases pre with
  | none => exact .ok none t
  | some pre => exact .ite (.ok _ t) ((takeBits_setHdr m t _).andThen fun _ t => .ok _ t)

theorem emitEntry_setHdr (bits k : Nat) (v : Byte) :
    Shadowed m (emitEntry bits k v s) (emitEntry bits k v (setHdr m s)) := by
  refine (takeBits_setHdr m s bits).andThen fun r t => ?_
  cases r with
  | none => exact .ok () _
  | some _ => exact .ok () (t.pushTab k v)

/-! ## The Glaze loop -/

theorem fetchTab_setHdr : Shadowed m (fetchTab s) (fetchTab (setHdr m s)) := by
  refine .ite (.raised _ s) ?_
  rw [setHdr_tab, setHdr_glz]
  cases s.tab.read s.glz.tp.toNat with
  | none => exact .stuck _
  | some v => exact .ok v (s.advanceTp 1)

theorem fetchDict_setHdr : Shadowed m (fetchDict s) (fetchDict (setHdr m s)) :=
  .ite (.raised _ s) <| (readBuf_setHdr m s _).andThen fun v _ => .ok v _

theorem fetchOvf_setHdr : Shadowed m (fetchOvf s) (fetchOvf (setHdr m s)) :=
  .ite (.raised _ s) <| (readBuf_setHdr m s _).andThen fun v _ => .ok v _

theorem put_setHdr (b : Byte) : Shadowed m (put b s) (put b (setHdr m s)) :=
  .ite (.raised _ s) (.ok () (s.pushOut b))

theorem backref_setHdr (dist len : Nat) : Shadowed m (backref dist len s) (backref dist len (setHdr m s)) := by
  induction len generalizing s with
  | zero => exact .ok () s
  | succ len ih =>
    refine .ite (.raised _ s) ?_
    rw [setHdr_out, setHdr_glz]
    cases s.out.read (s.glz.wp.toNat - dist) with
    | none => exact .stuck _
    | some b => exact (put_setHdr m s b).andThen fun _ t => ih t

theorem litrun_setHdr (count : Nat) : Shadowed m (litrun count s) (litrun count (setHdr m s)) := by
  induction count generalizing s with
  | zero => exact .ok () s
  | succ count ih =>
    exact ((fetchDict_setHdr m s).andThen fun b t => put_setHdr m t b).andThen fun _ t => ih t

theorem copyResult_setHdr (i : Instr) : Shadowed m (copyResult i s) (copyResult i (setHdr m s)) := by
  cases i with
  | rep _ | cpy _ _ => exact backref_setHdr m s _ _
  | run _ => exact litrun_setHdr m s _
  | lit => exact (fetchDict_setHdr m s).andThen fun b t => put_setHdr m t b
  | cpyd _ | cpyw _ _ => exact (fetchDict_setHdr m s).andThen fun _ t => backref_setHdr m t _ _
  | runx => exact (fetchOvf_setHdr m s).andThen fun _ t => litrun_setHdr m t _
  | _ => exact .ok () s

theorem instrResult_setHdr (i : Instr) : Shadowed m (instrResult i s) (instrResult i (setHdr m s)) :=
  .ite (copyResult_setHdr m (s.advanceTp i.size) i) (emitEntry_setHdr m s _ _ _)

theorem fetchOperands_setHdr (n : Nat) : Shadowed m (fetchOperands n s) (fetchOperands n (setHdr m s)) := by
  induction n generalizing s with
  | zero => exact .ok _ s
  | succ n ih => exact (fetchTab_setHdr m s).andThen fun _ t => (ih t).andThen fun _ t => .ok _ t

theorem fetchGlazeBytes_setHdr : Shadowed m (fetchGlazeBytes s) (fetchGlazeBytes (setHdr m s)) :=
  (fetchTab_setHdr m s).andThen fun _ t => (fetchOperands_setHdr m t _).andThen fun _ t => .ok _ t

theorem fetchGlaze_setHdr :
    Shadowed m (fetchedResult (fetchGlaze s) s) (fetchedResult (fetchGlaze (setHdr m s)) (setHdr m s)) := by
  rw [fetchGlaze_eq_andThen, fetchGlaze_eq_andThen]
  refine (fetchGlazeBytes_setHdr m s).andThen fun bytes t => ?_
  unfold afterTabBytes
  split
  · exact instrResult_setHdr m s _
  · exact .raised _ t
  · exact .raised _ t

theorem fetchCodeword_setHdr :
    Shadowed m (fetchedResult (fetchCodeword s) s) (fetchedResult (fetchCodeword (setHdr m s)) (setHdr m s)) := by
  rw [fetchCodeword_eq_andThen, fetchCodeword_eq_andThen]
  refine (fetchCodewordBits_setHdr m s).andThen fun bits t => ?_
  unfold afterCodewordBits
  split
  · exact instrResult_setHdr m s _
  · exact .ok () t.closeTable

/-! ## The header check and the step -/

variable {s} in
theorem readHdr32_setHdr (h : ∀ x, x < 8 → m.read x = s.hdr.read x) {a : Nat} (ha : a + 3 < 8) :
    Shadowed m (readHdr32 a s) (readHdr32 a (setHdr m s)) := by
  have hword : read32 m.read a = read32 s.hdr.read a := by
    rw [read32, read32, h a (by omega), h (a + 1) (by omega), h (a + 2) (by omega), h (a + 3) ha]
  rw [readHdr32, readHdr32, setHdr_hdr, hword]
  cases read32 s.hdr.read a with
  | none => exact .stuck _
  | some w => exact .ok w s

variable {s} in
/-- The header check reads the first two words (R101, R281). -/
theorem checkHeader_setHdr (h : ∀ x, x < 8 → m.read x = s.hdr.read x) :
    Shadowed m (checkHeader s) (checkHeader (setHdr m s)) := by
  refine .ite (.raised _ s) (.ite (.raised _ s) ?_)
  refine (readHdr32_setHdr m h (a := 0) (by decide)).andThen_of_ok fun tag t hread => ?_
  obtain rfl : t = s := readHdr32_leaves (.inl ⟨tag, hread⟩)
  refine .ite (.raised _ t) ?_
  exact (readHdr32_setHdr m h (a := 4) (by decide)).andThen fun _ _ => .ok () _

theorem checkSeeds_setHdr : Shadowed m (checkSeeds s) (checkSeeds (setHdr m s)) :=
  .ite (.raised _ s) (.ok () (s.enter .s1a))

variable {s} in
/-- A `HDR` with the same first two words makes no difference to a step of a decode. -/
theorem busyResult_setHdr (h : ∀ x, x < 8 → m.read x = s.hdr.read x) :
    Shadowed m (busyResult s) (busyResult (setHdr m s)) := by
  unfold busyResult
  rw [setHdr_phase]
  cases s.phase with
  | hdr => exact checkHeader_setHdr m h
  | seedchk => exact checkSeeds_setHdr m s
  | s1a => exact passA_setHdr m s
  | s1b => exact passB_setHdr m s
  | s2Tail => exact readTail_setHdr m s
  | s2Scan => exact scanSentinel_setHdr m s
  | s2Xor => exact xorDecode_setHdr m s
  | s2Ck => exact checksum_setHdr m s
  | s2Perm => exact permuteLeading_setHdr m s
  | glzHdr => exact parseHeader_setHdr m s
  | glzTab => exact .ite (fetchCodeword_setHdr m s) (.ok () s.closeTable)
  | glzRun => exact .ite (fetchGlaze_setHdr m s) (.ok () s.finish)
  | finished => exact .ok () s
end

/-- Settles O47: a write from byte 8 on leaves the first two words of `HDR`, and no operation of a decode reads more of
it. -/
theorem reservedWordsHaveNoEffect : Obligations.ReservedWordsHaveNoEffect := by
  unfold Obligations.ReservedWordsHaveNoEffect
  intro s t a v hbusy ha hstep
  have hread : ∀ x, x < 8 → (s.hdr.write a v).read x = s.hdr.read x := fun x hx =>
    Memory.read_write_other s.hdr a v x (by omega)
  rw [step_of_busy hbusy] at hstep
  have hnext := (busyResult_setHdr _ hread).toOutcome hstep
  rw [← step_of_busy (by rw [setHdr_status, hbusy])] at hnext
  exact hnext

end Sys2Proof.Proofs
end

section
/-! SUPPORT. The PRNG (spec/40_prng.md): what `next` makes of the register pair, and what the two draws take of its
value, as numbers. -/

namespace Sys2Proof.Proofs
open Sys2Proof Sys2Proof.Machine

/-! ## `next` -/

@[simp] theorem next_m (p : Prng) : p.next.m = p.m := by rw [Prng.next]

theorem toNat_next_a (p : Prng) : p.next.a.toNat = (p.m.toNat * p.a.toNat + 0x2F09) % 2 ^ 32 := by
  change (p.m * p.a + Params.increment).toNat = _
  rw [BitVec.toNat_add, BitVec.toNat_mul, Nat.mod_add_mod]
  rfl

/-- Settles O1: the product wraps before the addition does, and the two wraps are one. -/
theorem prngNextIsTheLcg : Obligations.PrngNextIsTheLcg :=
  fun p => ⟨toNat_next_a p, next_m p⟩

/-! ## The draws -/

/-- A shift followed by a mask of `k` ones takes the `k` bits from bit `n` on. -/
theorem toNat_shift_and_mask {w n k : Nat} {mask : BitVec w} (hmask : mask.toNat = 2 ^ k - 1) (v : BitVec w) :
    ((v >>> n) &&& mask).toNat = v.toNat / 2 ^ n % 2 ^ k := by
  rw [BitVec.toNat_and, BitVec.toNat_ushiftRight, hmask, Nat.and_two_pow_sub_one_eq_mod, Nat.shiftRight_eq_div_pow]

@[simp] theorem draw15_snd (p : Prng) : p.draw15.2 = p.next := rfl

@[simp] theorem draw8_snd (p : Prng) : p.draw8.2 = p.next := rfl

theorem toNat_draw15 (p : Prng) : p.draw15.1.toNat = p.next.a.toNat / 2 ^ 16 % 2 ^ 15 :=
  toNat_shift_and_mask (k := 15) rfl p.next.a

theorem toNat_draw8 (p : Prng) : p.draw8.1.toNat = p.next.a.toNat / 2 ^ 16 % 2 ^ 8 := by
  have hmasked : (p.next.a >>> Params.drawShift &&& Params.draw8Mask).toNat = p.next.a.toNat / 2 ^ 16 % 2 ^ 8 :=
    toNat_shift_and_mask rfl p.next.a
  calc p.draw8.1.toNat
      = (p.next.a >>> Params.drawShift &&& Params.draw8Mask).toNat % 2 ^ 8 := BitVec.toNat_setWidth 8 _
    _ = p.next.a.toNat / 2 ^ 16 % 2 ^ 8 := by rw [hmasked, Nat.mod_mod]

/-- Settles O2: the masks of the two draws are 15 and 8 ones, and the byte holds all 8 of the bits that are left. -/
theorem drawsAreTheTopBits : Obligations.DrawsAreTheTopBits :=
  fun p => ⟨toNat_draw15 p, draw15_snd p, toNat_draw8 p, draw8_snd p⟩

end Sys2Proof.Proofs
end

section
/-! SUPPORT. Every decode ends (spec/47_orchestrator.md R285, the inference R360): a step that goes on moves to the next
phase, closes the decode, or takes one off what its loop has left, the entries still wanted or the table bytes still to
be fetched (spec/45_code_table.md R221, spec/46_glaze.md R246). -/

namespace Sys2Proof.Proofs
open Sys2Proof Sys2Proof.Machine

/-! ## The work that is left -/

/-- What the loop of a phase has left to do: the entries `TAB` still wants, or the bytes of `TAB` not yet fetched. -/
def loopLeft (s : State) : Nat :=
  match s.phase with
  | .glzTab => s.ct.tlen.toNat - s.ct.tcount.toNat
  | .glzRun => s.ct.tcount.toNat - s.glz.tp.toNat
  | _ => 0

/-- What a decode has left to do: the phases to come, each worth more than any loop, and the loop of its own phase. -/
def workLeft (s : State) : Nat := 2 ^ 32 * (Phase.finished.rank - s.phase.rank) + loopLeft s

section
variable {s t : State}

theorem loopLeft_lt (s : State) : loopLeft s < 2 ^ 32 := by
  unfold loopLeft
  split
  · exact Nat.lt_of_le_of_lt (Nat.sub_le _ _) s.ct.tlen.isLt
  · exact Nat.lt_of_le_of_lt (Nat.sub_le _ _) s.ct.tcount.isLt
  · decide

theorem rank_le_finished (p : Phase) : p.rank ≤ Phase.finished.rank := by cases p <;> decide

theorem workLeft_lt_of_next_phase (h : t.phase.rank = s.phase.rank + 1) : workLeft t < workLeft s := by
  have hloop := loopLeft_lt t
  have hrank := rank_le_finished t.phase
  unfold workLeft
  omega

theorem workLeft_lt_of_loop (hp : t.phase = s.phase) (hl : loopLeft t < loopLeft s) : workLeft t < workLeft s := by
  unfold workLeft
  rw [hp]
  exact Nat.add_lt_add_left hl _

/-! ## Each phase goes on to the next one -/

/-- An operation has gone on to the phase `ph`, the decode still running as it was. -/
structure MovedTo (ph : Phase) (s t : State) : Prop where
  status : t.status = s.status
  phase : t.phase = ph

theorem MovedTo.workLeft_lt {ph : Phase} (h : MovedTo ph s t) (hrank : ph.rank = s.phase.rank + 1) :
    workLeft t < workLeft s :=
  workLeft_lt_of_next_phase (by rw [h.phase, hrank])

/-- A loop that keeps `STATUS`, with the entry into a phase behind it. -/
theorem movedTo_of_andThen {α : Type} {r : Result α} {g : α → State → State} {ph : Phase}
    (h : (r.andThen fun a u => .ok () ((g a u).enter ph)) = .ok () t) (hr : ∀ u, r.Leaves u → u.status = s.status)
    (hg : ∀ a u, (g a u).status = u.status) : MovedTo ph s t := by
  obtain ⟨a, u, hu, hok⟩ := Result.andThen_eq_ok.mp h
  cases hok
  exact ⟨(hg a u).trans (hr u (.inl ⟨a, hu⟩)), rfl⟩

/-- An operation that leaves the state as it is, with another one behind it that went on. -/
theorem andThen_eq_ok_of_leaves_self {α β : Type} {r : Result α} {f : α → State → Result β} {b : β}
    (h : r.andThen f = .ok b t) (hr : ∀ u, r.Leaves u → u = s) : ∃ a, f a s = .ok b t := by
  obtain ⟨a, u, hu, hok⟩ := Result.andThen_eq_ok.mp h
  exact ⟨a, hr u (.inl ⟨a, hu⟩) ▸ hok⟩

theorem checkHeader_movesTo (h : checkHeader s = .ok () t) : MovedTo .seedchk s t := by
  unfold checkHeader at h
  split at h
  · cases h
  split at h
  · cases h
  obtain ⟨tag, h⟩ := andThen_eq_ok_of_leaves_self h fun _ => readHdr32_leaves
  split at h
  · cases h
  · exact movedTo_of_andThen h (fun _ hv => by rw [readHdr32_leaves hv]) fun _ _ => rfl

theorem checkSeeds_movesTo (h : checkSeeds s = .ok () t) : MovedTo .s1a s t := by
  unfold checkSeeds at h
  split at h
  · cases h
  · cases h
    exact ⟨rfl, rfl⟩

theorem passA_movesTo (h : passA s = .ok () t) : MovedTo .s1b s t :=
  movedTo_of_andThen h (fun _ hu => by rw [(permuteChunks_leaves hu).same]) fun _ _ => rfl

theorem passB_movesTo (h : passB s = .ok () t) : MovedTo .s2Tail s t :=
  movedTo_of_andThen h (fun _ hu => by rw [(passBFrom_leaves hu).same]; rfl) fun _ _ => rfl

theorem readTail_movesTo (h : readTail s = .ok () t) : MovedTo .s2Scan s t := by
  unfold readTail at h
  simp only at h
  split at h
  · cases h
  obtain ⟨aux, h⟩ := andThen_eq_ok_of_leaves_self h fun _ => readBuf32_leaves
  obtain ⟨high, h⟩ := andThen_eq_ok_of_leaves_self h fun _ => readBuf32_leaves
  exact movedTo_of_andThen h (fun _ hw => by rw [readBuf32_leaves hw]) fun _ _ => rfl

theorem scanSentinel_movesTo (h : scanSentinel s = .ok () t) : MovedTo .s2Xor s t :=
  movedTo_of_andThen h (fun _ hu => by rw [scanBelow_leaves hu]) fun _ _ => rfl

theorem xorDecode_movesTo (h : xorDecode s = .ok () t) : MovedTo .s2Ck s t :=
  movedTo_of_andThen h (fun _ hu => by rw [(xorFrom_leaves hu).same]) fun _ _ => rfl

theorem checksum_movesTo (h : checksum s = .ok () t) : MovedTo .s2Perm s t := by
  obtain ⟨_, u, hu, hfold⟩ := Result.andThen_eq_ok.mp h
  obtain ⟨_, v, hv, hend⟩ := Result.andThen_eq_ok.mp hfold
  split at hend
  · cases hend
  · cases hend
    exact ⟨by rw [foldFrom_leaves (.inl ⟨_, hv⟩), writeBuf_leaves (.inl ⟨_, hu⟩)]; rfl, rfl⟩

theorem permuteLeading_movesTo (h : permuteLeading s = .ok () t) : MovedTo .glzHdr s t :=
  movedTo_of_andThen h (fun _ hu => by rw [(permuteChunks_leaves hu).same]) fun _ _ => rfl

theorem openTable_movesTo {ph : Phase} (h : openTable s = .ok () t) (hp : s.phase = ph) : MovedTo ph s t := by
  unfold openTable at h
  split at h
  · cases h
  obtain ⟨tlen, h⟩ := andThen_eq_ok_of_leaves_self h fun _ => readBuf32_leaves
  simp only at h
  split at h
  · cases h
  · cases h
    exact ⟨rfl, hp⟩

theorem parseHeader_movesTo (h : parseHeader s = .ok () t) : MovedTo .glzTab s t := by
  unfold parseHeader at h
  simp only at h
  split at h
  · cases h
  obtain ⟨declared, h⟩ := andThen_eq_ok_of_leaves_self h fun _ => readBuf32_leaves
  obtain ⟨lb, h⟩ := andThen_eq_ok_of_leaves_self h fun _ => readBuf32_leaves
  split at h
  · cases h
  split at h
  · cases h
  split at h
  · cases h
  obtain ⟨ld, h⟩ := andThen_eq_ok_of_leaves_self h fun _ => lengthPrefix_leaves
  split at h
  · cases h
  obtain ⟨lo, h⟩ := andThen_eq_ok_of_leaves_self h fun _ => lengthPrefix_leaves
  split at h
  · cases h
  · obtain ⟨hstatus, hphase⟩ := openTable_movesTo h rfl
    exact ⟨hstatus, hphase⟩

/-! ## The two loops -/

/-- A codeword of a table that wants more entries adds one, or the stream ends and with it the builder (R221, R225). -/
theorem fetchCodeword_progress (hp : s.phase = .glzTab) (hlt : s.ct.tcount < s.ct.tlen)
    (h : fetchedResult (fetchCodeword s) s = .ok () t) : t.status = s.status ∧ workLeft t < workLeft s := by
  have hclose : ∀ u : State, u.phase = .glzRun → workLeft u < workLeft s := fun u hu =>
    workLeft_lt_of_next_phase (by rw [hu, hp]; rfl)
  rw [fetchCodeword_eq_andThen] at h
  obtain ⟨bits, u, hu, h⟩ := Result.andThen_eq_ok.mp h
  unfold afterCodewordBits at h
  split at h
  · next i _ hd =>
    obtain ⟨bits', _, hd'⟩ := Option.map_eq_some_iff.mp hd
    simp only [instrResult, decodeBits_isGlaze hd', Bool.false_eq_true, if_false] at h
    obtain ⟨r, v, hv, h⟩ := Result.andThen_eq_ok.mp h
    have hsame := takeBits_leaves (.inl ⟨r, hv⟩)
    cases r with
    | none =>
      cases h
      exact ⟨by rw [hsame]; rfl, hclose _ rfl⟩
    | some _ =>
      cases h
      refine ⟨by rw [hsame]; rfl, workLeft_lt_of_loop (by rw [hsame]; rfl) ?_⟩
      have hcount : ((v.pushTab (codewordEntry i).1 (codewordEntry i).2).ct.tcount).toNat = s.ct.tcount.toNat + 1 := by
        rw [hsame]
        exact toNat_add_one_of_lt hlt
      have hlt' : s.ct.tcount.toNat < s.ct.tlen.toNat := hlt
      simp only [loopLeft, State.pushTab_phase, hp, hcount]
      rw [hsame]
      simp only [hp, State.pushTab_ct_tlen]
      omega
  · cases h
    have hmoved : ReaderMoved s u := fetchCodewordBits_moved (.inl ⟨_, hu⟩)
    exact ⟨by rw [hmoved]; rfl, hclose _ rfl⟩

theorem Meets.of_ok {α : Type} {P : α → State → Prop} {r : Result α} {a : α} (h : Meets P r) (hr : r = .ok a t) :
    P a t := by
  rw [hr] at h
  cases h with | ok h => exact h

theorem size_pos (i : Instr) : 0 < i.size := by cases i <;> exact Nat.succ_pos _

/-- A Glaze instruction moves `TP` past its own table bytes, of which it has at least one (spec/46_glaze.md R253). -/
theorem fetchGlaze_progress (h : s.Inv) (hb : s.status = .busy) (hp : s.phase = .glzRun)
    (hr : fetchedResult (fetchGlaze s) s = .ok () t) : t.status = s.status ∧ workLeft t < workLeft s := by
  rw [fetchGlaze_eq_andThen] at hr
  obtain ⟨bytes, u, hu, hok⟩ := Result.andThen_eq_ok.mp hr
  have hfit := (fetchGlazeBytes_meets (h.table ⟨hb, by rw [hp]; decide⟩)).of_ok hu
  unfold afterTabBytes at hok
  split at hok
  · next i _ hd =>
    obtain ⟨hglaze, hsize⟩ := decodeTab_ok hd
    simp only [instrResult, hglaze, if_true] at hok
    have hframe := (copyResult_leaves (.inl ⟨_, hok⟩)).same
    have htp : (s.glz.tp + BitVec.ofNat 32 i.size).toNat = s.glz.tp.toNat + i.size := by
      have hlt := s.ct.tcount.isLt
      rw [BitVec.toNat_add, BitVec.toNat_ofNat]
      omega
    have hpos := size_pos i
    refine ⟨by rw [hframe]; rfl, workLeft_lt_of_loop (by rw [hframe]; rfl) ?_⟩
    rw [hframe]
    simp only [loopLeft, State.advanceTp_phase, State.advanceTp_ct, State.advanceTp_glz_tp, hp, htp]
    omega
  · cases hok
  · cases hok

/-! ## A step of a decode -/

/-- An operation of a decode that goes on ends the decode or leaves less to do. -/
theorem busyResult_progress (h : s.Inv) (hb : s.status = .busy) (hr : busyResult s = .ok () t) :
    t.status = .done ∨ t.status = .busy ∧ workLeft t < workLeft s := by
  have hmoved : ∀ {ph : Phase}, MovedTo ph s t → ph.rank = s.phase.rank + 1 →
      t.status = .done ∨ t.status = .busy ∧ workLeft t < workLeft s :=
    fun hm hrank => .inr ⟨hm.status.trans hb, hm.workLeft_lt hrank⟩
  unfold busyResult at hr
  cases hp : s.phase with
  | hdr => rw [hp] at hr; exact hmoved (checkHeader_movesTo hr) (by rw [hp]; rfl)
  | seedchk => rw [hp] at hr; exact hmoved (checkSeeds_movesTo hr) (by rw [hp]; rfl)
  | s1a => rw [hp] at hr; exact hmoved (passA_movesTo hr) (by rw [hp]; rfl)
  | s1b => rw [hp] at hr; exact hmoved (passB_movesTo hr) (by rw [hp]; rfl)
  | s2Tail => rw [hp] at hr; exact hmoved (readTail_movesTo hr) (by rw [hp]; rfl)
  | s2Scan => rw [hp] at hr; exact hmoved (scanSentinel_movesTo hr) (by rw [hp]; rfl)
  | s2Xor => rw [hp] at hr; exact hmoved (xorDecode_movesTo hr) (by rw [hp]; rfl)
  | s2Ck => rw [hp] at hr; exact hmoved (checksum_movesTo hr) (by rw [hp]; rfl)
  | s2Perm => rw [hp] at hr; exact hmoved (permuteLeading_movesTo hr) (by rw [hp]; rfl)
  | glzHdr => rw [hp] at hr; exact hmoved (parseHeader_movesTo hr) (by rw [hp]; rfl)
  | glzTab =>
    simp only [hp] at hr
    split at hr
    · next hlt =>
      obtain ⟨hstatus, hwork⟩ := fetchCodeword_progress hp hlt hr
      exact .inr ⟨hstatus.trans hb, hwork⟩
    · cases hr
      exact hmoved ⟨rfl, rfl⟩ (by rw [hp]; rfl)
  | glzRun =>
    simp only [hp] at hr
    split at hr
    · obtain ⟨hstatus, hwork⟩ := fetchGlaze_progress h hb hp hr
      exact .inr ⟨hstatus.trans hb, hwork⟩
    · cases hr
      exact .inl rfl
  | finished => exact absurd hp (h.active hb)

/-- A step of a decode with the invariant keeps it, and ends the decode or leaves less to do. -/
theorem step_progress (h : s.Inv) (hb : s.status = .busy) :
    ∃ t, step s = .next t ∧ t.Inv ∧
      ((t.status = .done ∨ t.status = .failed) ∨ t.status = .busy ∧ workLeft t < workLeft s) := by
  obtain ⟨t, ht, hinv⟩ := step_busy_of_inv h hb
  refine ⟨t, ht, hinv, ?_⟩
  rw [step_of_busy hb] at ht
  rcases Result.toOutcome_eq_next.mp ht with hok | ⟨k, u, _, rfl⟩
  · rcases busyResult_progress h hb hok with hdone | hless
    · exact .inl (.inl hdone)
    · exact .inr hless
  · exact .inl (.inr (State.raise_status k u))
end

/-- Settles O59: by strong induction on the work that is left. -/
theorem everyDecodeEnds : Obligations.EveryDecodeEnds := by
  unfold Obligations.EveryDecodeEnds
  intro s h hb
  induction hw : workLeft s using Nat.strong_induction_on generalizing s with
  | _ w ih =>
    obtain ⟨t, ht, hinv, hend | ⟨hbusy, hless⟩⟩ := step_progress h hb
    · exact ⟨1, t, run_succ_eq_next.mpr ⟨t, ht, rfl⟩, hend⟩
    · obtain ⟨n, u, hrun, hend⟩ := ih _ (hw ▸ hless) t hinv hbusy rfl
      exact ⟨n + 1, u, run_succ_eq_next.mpr ⟨t, ht, hrun⟩, hend⟩

end Sys2Proof.Proofs
end

section
/-! SUPPORT. The order array (spec/41_permutation.md R154, R155): the first `remaining` pool entries are the positions not
yet drawn, in rising order, so each draw takes one of them and `compact` removes it. -/

namespace Sys2Proof.Proofs
open Sys2Proof Sys2Proof.Machine

/-! ## One draw -/

/-- The compaction removes entry `x` of the remaining ones and keeps the order of the others (R154). -/
theorem take_compact {pool : List Nat} {x r : Nat} (hx : x ≤ r) (hr : r < pool.length) :
    (compact pool x (r + 1)).take r = (pool.take (r + 1)).eraseIdx x := by
  have hlen : (pool.take x).length = x := by
    rw [List.length_take]
    omega
  have htake : r + 1 - 1 - x = r - x := by omega
  rw [compact, htake, List.take_append, hlen, List.take_of_length_le (by omega), List.take_append_of_le_length,
    List.take_take, Nat.min_self, List.eraseIdx_eq_take_drop_succ, List.take_take, List.drop_take]
  · congr 2 <;> omega
  · rw [List.length_take, List.length_drop]
    omega

/-- The positions left after a draw are those that are not the one drawn. -/
theorem eraseIdx_eq_filter {avail : List Nat} (h : avail.Nodup) {x : Nat} (hx : x < avail.length) :
    avail.eraseIdx x = avail.filter (fun e => e ≠ avail[x]) := by
  rw [← h.erase_getElem x hx, h.erase_eq_filter]
  exact List.filter_congr fun e _ => by simp [bne, beq_eq_decide]

/-! ## All draws -/

/-- `ord` is what drawing every position of `avail` gives, one by one, from the PRNG `p` on (R154). -/
structure Drawn (p : Prng) (avail ord : List Nat) : Prop where
  perm : ord.Perm avail
  entry : ∀ j, j < avail.length →
    ord[j]? =
      (avail.filter (fun e => e ∉ ord.take j))[(Prng.next^[j] p).draw15.1.toNat % (avail.length - j)]?

theorem Drawn.cons {p : Prng} {avail ord : List Nat} {x : Nat} (hx : x < avail.length)
    (hdraw : x = p.draw15.1.toNat % avail.length) (hnd : avail.Nodup) (h : Drawn p.next (avail.eraseIdx x) ord) :
    Drawn p avail (avail[x] :: ord) where
  perm := (h.perm.cons _).trans (List.getElem_cons_eraseIdx_perm hx)
  entry j hj := by
    cases j with
    | zero => simp [← hdraw, List.getElem?_eq_getElem hx]
    | succ j =>
      have hlen : (avail.eraseIdx x).length = avail.length - 1 := List.length_eraseIdx_of_lt hx
      have hfilter : avail.filter (fun e => e ∉ (avail[x] :: ord).take (j + 1)) =
          (avail.eraseIdx x).filter (fun e => e ∉ ord.take j) := by
        rw [eraseIdx_eq_filter hnd hx, List.filter_filter]
        refine List.filter_congr fun e _ => ?_
        simp [and_comm]
      rw [List.getElem?_cons_succ, h.entry j (by omega), hfilter, Function.iterate_succ_apply, hlen]
      congr 2
      omega

/-- A pool that holds each remaining position once is drawn from to its end, with a draw for each position. -/
theorem drawOrder_drawn {r : Nat} (p : Prng) {pool : List Nat} (hr : r ≤ pool.length) (hnd : (pool.take r).Nodup) :
    ∃ ord pool', drawOrder r p pool = some (ord, pool', Prng.next^[r] p) ∧ Drawn p (pool.take r) ord := by
  induction r generalizing p pool with
  | zero => exact ⟨[], pool, rfl, .nil, fun j hj => absurd hj (Nat.not_lt_zero j)⟩
  | succ r ih =>
    have hlen : (pool.take (r + 1)).length = r + 1 := List.length_take_of_le hr
    have hmod : p.draw15.1.toNat % (r + 1) < r + 1 := Nat.mod_lt _ (Nat.succ_pos r)
    have hx : p.draw15.1.toNat % (r + 1) < (pool.take (r + 1)).length := hlen.symm ▸ hmod
    have htake := take_compact (Nat.le_of_lt_succ hmod) hr
    obtain ⟨ord, pool', hd, hdrawn⟩ := ih p.next
      (pool := compact pool (p.draw15.1.toNat % (r + 1)) (r + 1)) (by rw [compact_length hmod hr]; omega)
      (htake ▸ hnd.eraseIdx _)
    refine ⟨_, pool', ?_, (htake ▸ hdrawn).cons hx (by rw [hlen]) hnd⟩
    have hget : pool[p.draw15.1.toNat % (r + 1)]? = some (pool.take (r + 1))[p.draw15.1.toNat % (r + 1)] := by
      rw [List.getElem_take, List.getElem?_eq_getElem]
    simp only [drawOrder, hget, draw15_snd, hd, Function.iterate_succ_apply]

/-- The order array that `build_order()` makes of `n` positions from a PRNG. -/
def drawnOrder (n : Nat) (p : Prng) : List Nat := ((drawOrder n p (List.range n)).map fun d => d.1).getD []

theorem drawOrder_range (n : Nat) (p : Prng) :
    ∃ pool, drawOrder n p (List.range n) = some (drawnOrder n p, pool, Prng.next^[n] p) ∧
      Drawn p (List.range n) (drawnOrder n p) := by
  have htake : (List.range n).take n = List.range n := List.take_of_length_le (by rw [List.length_range])
  obtain ⟨ord, pool, hd, hdrawn⟩ :=
    drawOrder_drawn p (pool := List.range n) (r := n) (by rw [List.length_range]) (htake.symm ▸ List.nodup_range)
  rw [htake] at hdrawn
  have hord : drawnOrder n p = ord := by rw [drawnOrder, hd]; rfl
  exact ⟨pool, hord ▸ hd, hord ▸ hdrawn⟩

theorem drawnOrder_drawn (n : Nat) (p : Prng) : Drawn p (List.range n) (drawnOrder n p) :=
  (drawOrder_range n p).choose_spec.2

@[simp] theorem drawnOrder_length (n : Nat) (p : Prng) : (drawnOrder n p).length = n := by
  rw [(drawnOrder_drawn n p).perm.length_eq, List.length_range]

theorem drawnOrder_nodup (n : Nat) (p : Prng) : (drawnOrder n p).Nodup :=
  (drawnOrder_drawn n p).perm.nodup_iff.mpr List.nodup_range

theorem lt_of_mem_drawnOrder {n : Nat} {p : Prng} {e : Nat} (h : e ∈ drawnOrder n p) : e < n :=
  List.mem_range.mp ((drawnOrder_drawn n p).perm.mem_iff.mp h)

/-- `build_order()` leaves the order array drawn and the PRNG one draw further for each position, and touches no byte. -/
theorem buildOrder_eq_ok (n : Nat) (s : State) :
    ∃ pool pe, buildOrder n s =
      .ok () { s with ord := drawnOrder n s.prng, pool := pool, prng := Prng.next^[n] s.prng, pe := pe } := by
  obtain ⟨pool, hd, _⟩ := drawOrder_range n s.prng
  exact ⟨pool, _, by rw [buildOrder, hd]⟩

/-- Settles O3: the order array is drawn from 0 .. n-1, each position once. -/
theorem orderArrayIsAPermutation : Obligations.OrderArrayIsAPermutation := by
  unfold Obligations.OrderArrayIsAPermutation
  intro n s
  obtain ⟨pool, pe, hok⟩ := buildOrder_eq_ok n s
  obtain ⟨hperm, hentry⟩ := drawnOrder_drawn n s.prng
  rw [List.length_range] at hentry
  exact ⟨_, hok, hperm, rfl, rfl, hentry⟩

end Sys2Proof.Proofs
end

section
/-! SUPPORT. The bits of `BUF` (spec/20_memory.md R72) and what it is for pairs of them to change places
(spec/41_permutation.md R157, R158); a swap as the exchange of one pair (R158, R159). -/

namespace Sys2Proof.Proofs
open Sys2Proof Sys2Proof.Machine

/-! ## The bits of `BUF` -/

/-- Bit `g` of `BUF`, the bits counted from address 0 on; entry `e` of a slice at `start` names bit `8 * start + e`. -/
def bitOf (s : State) (g : Nat) : Option Bool := s.bitAt 0 g

/-- The weight in its byte of the bit that an entry names, by `PERM_BIT_LSB0` (R72). -/
def weightOf (s : State) (g : Nat) : Nat := if s.cfg.permBitLsb0 then g % 8 else 7 - g % 8

section
variable {s t u : State} {f g g0 g1 : Nat}

theorem weightOf_lt (s : State) (g : Nat) : weightOf s g < 8 := by
  unfold weightOf
  split <;> omega

theorem weightOf_eq_iff : weightOf s f = weightOf s g ↔ f % 8 = g % 8 := by
  unfold weightOf
  split <;> omega

theorem bitAt_eq_getLsbD (s : State) (start e : Nat) :
    s.bitAt start e = (s.bufAt (start + e / 8)).map fun b => b.getLsbD (weightOf s e) := by
  unfold State.bitAt weightOf
  refine congrArg (fun F => Option.map F _) (funext fun b => ?_)
  split
  · rfl
  · rw [BitVec.getMsbD_eq_getLsbD, decide_eq_true (Nat.mod_lt e (by decide)), Bool.true_and]

theorem bitOf_eq (s : State) (g : Nat) : bitOf s g = (s.bufAt (g / 8)).map fun b => b.getLsbD (weightOf s g) := by
  rw [bitOf, bitAt_eq_getLsbD, Nat.zero_add]

theorem mul_add_div_eight (start e : Nat) : (8 * start + e) / 8 = start + e / 8 := by omega

theorem bitAt_eq_bitOf (s : State) (start e : Nat) : s.bitAt start e = bitOf s (8 * start + e) := by
  have hweight : weightOf s (8 * start + e) = weightOf s e := weightOf_eq_iff.mpr (Nat.mul_add_mod 8 start e)
  rw [bitAt_eq_getLsbD, bitOf_eq, mul_add_div_eight, hweight]

theorem isSome_bitOf (s : State) (g : Nat) : (bitOf s g).isSome = (s.bufAt (g / 8)).isSome := by
  rw [bitOf_eq, Option.isSome_map]

/-- Two machines with the same bits have the same bytes of the payload. -/
theorem bufAt_eq_of_bitOf_eq (hcfg : t.cfg = s.cfg) (h : ∀ g, bitOf t g = bitOf s g) (a : Nat) :
    t.bufAt a = s.bufAt a := by
  have hweight : ∀ g, weightOf t g = weightOf s g := fun g => by rw [weightOf, weightOf, hcfg]
  have hdiv : ∀ k, k < 8 → (8 * a + k) / 8 = a := by omega
  have hsome := isSome_bitOf t (8 * a + 0)
  rw [h, isSome_bitOf, hdiv 0 (by decide)] at hsome
  cases hs : s.bufAt a with
  | none => rwa [hs, Option.isSome_none, eq_comm, Option.isSome_eq_false_iff, Option.isNone_iff_eq_none] at hsome
  | some b =>
    rw [hs, Option.isSome_some, eq_comm, Option.isSome_iff_exists] at hsome
    obtain ⟨c, hc⟩ := hsome
    rw [hc]
    refine congrArg some (BitVec.eq_of_getLsbD_eq fun k hk => ?_)
    obtain ⟨j, hj, hjk⟩ : ∃ j, j < 8 ∧ weightOf s (8 * a + j) = k := by
      unfold weightOf
      split
      · exact ⟨k, hk, by omega⟩
      · exact ⟨7 - k, by omega, by omega⟩
    have hbit := h (8 * a + j)
    rw [bitOf_eq, bitOf_eq, hdiv j hj, hs, hc, hweight, hjk] at hbit
    exact Option.some.inj hbit

/-! ## One bit changed -/

theorem bitMask_eq_shiftLeft {lsb0 : Bool} {k : Nat} (hk : k < 8) :
    bitMask lsb0 k = (1 : Byte) <<< (if lsb0 then k else 7 - k) := by
  have h : ∀ (lsb0 : Bool) (k : Fin 8), bitMask lsb0 k.val = (1 : Byte) <<< (if lsb0 then k.val else 7 - k.val) := by
    decide
  exact h lsb0 ⟨k, hk⟩

/-- The mask of an entry has the bit of its weight alone (R158). -/
theorem maskOf_eq_shiftLeft (s : State) (g : Nat) : s.maskOf g = (1 : Byte) <<< weightOf s g :=
  bitMask_eq_shiftLeft (Nat.mod_lt g (by decide))

theorem and_maskOf_ne_zero (s : State) (g : Nat) (v : Byte) :
    (v &&& s.maskOf g != 0) = v.getLsbD (weightOf s g) := by
  rw [maskOf_eq_shiftLeft, and_one_shiftLeft_ne_zero (weightOf_lt s g), BitVec.testBit_toNat]

theorem getLsbD_one_shiftLeft {j k : Nat} (hj : j < 8) (hk : k < 8) :
    ((1 : Byte) <<< k).getLsbD j = decide (j = k) := by
  have h : ∀ j k : Fin 8, ((1 : Byte) <<< k.val).getLsbD j.val = decide (j.val = k.val) := by decide
  exact h ⟨j, hj⟩ ⟨k, hk⟩

/-- The machine with bit `g` of `BUF` changed. -/
def flipBit (g : Nat) (s : State) : State := s.setBuf (g / 8) ((s.bufAt (g / 8)).getD 0 ^^^ s.maskOf g)

theorem bufAt_setBuf {a : Nat} (h : a < s.payLen.toNat) (v : Byte) (x : Nat) :
    (s.setBuf a v).bufAt x = if a = x then some v else s.bufAt x := by
  have hread : (s.setBuf a v).bufAt x = if x < s.payLen.toNat then (s.buf.write a v).read x else none := rfl
  rw [hread, Memory.read_write, State.bufAt]
  by_cases hax : a = x
  · rw [if_pos (hax ▸ h), if_pos hax, if_pos hax]
  · rw [if_neg hax, if_neg hax]

theorem lt_payLen_of_bufAt {a : Nat} {v : Byte} (h : s.bufAt a = some v) : a < s.payLen.toNat := by
  unfold State.bufAt at h
  split at h
  · assumption
  · cases h

theorem bitOf_flipBit (hg : (bitOf s g).isSome) (f : Nat) :
    bitOf (flipBit g s) f = if f = g then (bitOf s f).map not else bitOf s f := by
  rw [isSome_bitOf] at hg
  obtain ⟨v, hv⟩ := Option.isSome_iff_exists.mp hg
  have hweight : weightOf (flipBit g s) f = weightOf s f := rfl
  rw [bitOf_eq, bitOf_eq, hweight, flipBit, bufAt_setBuf (lt_payLen_of_bufAt hv)]
  by_cases hdiv : g / 8 = f / 8
  · have hbit : decide (weightOf s f = weightOf s g) = decide (f = g) := by
      rw [decide_eq_decide, weightOf_eq_iff]
      omega
    rw [if_pos hdiv, hv, ← hdiv, hv, Option.getD_some, Option.map_some, Option.map_some, Option.map_some,
      BitVec.getLsbD_xor, maskOf_eq_shiftLeft, getLsbD_one_shiftLeft (weightOf_lt s f) (weightOf_lt s g), hbit]
    by_cases hfg : f = g <;> simp [hfg]
  · have hfg : f ≠ g := fun h => hdiv (h ▸ rfl)
    rw [if_neg hdiv, if_neg hfg]

/-! ## Pairs of bits that change places -/

/-- The bits that some pairs name. -/
def namedBits (ps : List (Nat × Nat)) : List Nat := ps.flatMap fun p => [p.1, p.2]

theorem namedBits_cons (p : Nat × Nat) (ps : List (Nat × Nat)) : namedBits (p :: ps) = p.1 :: p.2 :: namedBits ps := rfl

theorem namedBits_append (ps qs : List (Nat × Nat)) : namedBits (ps ++ qs) = namedBits ps ++ namedBits qs :=
  List.flatMap_append

theorem mem_namedBits {ps : List (Nat × Nat)} : g ∈ namedBits ps ↔ ∃ p ∈ ps, g = p.1 ∨ g = p.2 := by
  simp [namedBits]

/-- From `s` to `t` the two bits of each pair have changed places and no other bit has moved. -/
structure Exchanged (ps : List (Nat × Nat)) (s t : State) : Prop where
  pairs : ∀ p ∈ ps, bitOf t p.1 = bitOf s p.2 ∧ bitOf t p.2 = bitOf s p.1
  others : ∀ g, g ∉ namedBits ps → bitOf t g = bitOf s g

section
variable {ps qs : List (Nat × Nat)}

theorem Exchanged.nil (h : ∀ g, bitOf t g = bitOf s g) : Exchanged [] s t := ⟨nofun, fun g _ => h g⟩

/-- Pairs that share no bit, exchanged one after the other. -/
theorem Exchanged.append (h : Exchanged ps s t) (h' : Exchanged qs t u) (hd : (namedBits ps).Disjoint (namedBits qs)) :
    Exchanged (ps ++ qs) s u where
  pairs p hp := by
    have hnames : ∀ {rs : List (Nat × Nat)}, p ∈ rs → p.1 ∈ namedBits rs ∧ p.2 ∈ namedBits rs := fun hr =>
      ⟨mem_namedBits.mpr ⟨p, hr, .inl rfl⟩, mem_namedBits.mpr ⟨p, hr, .inr rfl⟩⟩
    rcases List.mem_append.mp hp with hp | hp
    · rw [h'.others _ (hd (hnames hp).1), h'.others _ (hd (hnames hp).2)]
      exact h.pairs p hp
    · rw [← h.others _ (fun hg => hd hg (hnames hp).1), ← h.others _ (fun hg => hd hg (hnames hp).2)]
      exact h'.pairs p hp
  others g hg := by
    rw [namedBits_append, List.mem_append, not_or] at hg
    rw [h'.others g hg.2, h.others g hg.1]

/-- The same pairs exchanged twice: every bit is back at its place (R160). -/
theorem Exchanged.twice (h : Exchanged ps s t) (h' : Exchanged ps t u) (g : Nat) : bitOf u g = bitOf s g := by
  by_cases hg : g ∈ namedBits ps
  · obtain ⟨p, hp, rfl | rfl⟩ := mem_namedBits.mp hg
    · rw [(h'.pairs p hp).1, (h.pairs p hp).2]
    · rw [(h'.pairs p hp).2, (h.pairs p hp).1]
  · rw [h'.others g hg, h.others g hg]

/-- An exchange of bits that are there leaves every bit as readable as it was. -/
theorem Exchanged.isSome (h : Exchanged ps s t) (hs : ∀ g ∈ namedBits ps, (bitOf s g).isSome) (g : Nat) :
    (bitOf t g).isSome = (bitOf s g).isSome := by
  by_cases hg : g ∈ namedBits ps
  · obtain ⟨p, hp, hgp⟩ := mem_namedBits.mp hg
    have h1 := hs p.1 (mem_namedBits.mpr ⟨p, hp, .inl rfl⟩)
    have h2 := hs p.2 (mem_namedBits.mpr ⟨p, hp, .inr rfl⟩)
    rcases hgp with rfl | rfl
    · rw [(h.pairs p hp).1, h1, h2]
    · rw [(h.pairs p hp).2, h1, h2]
  · rw [h.others g hg]
end

/-! ## The swap -/

/-- The machine after a swap of two bits of `BUF`: where they differ, both are changed (R158). -/
def swapped (g0 g1 : Nat) (s : State) : State :=
  if bitOf s g0 = bitOf s g1 then s else flipBit g1 (flipBit g0 s)

theorem swapped_eq (g0 g1 : Nat) (s : State) : swapped g0 g1 s = { s with buf := (swapped g0 g1 s).buf } := by
  unfold swapped
  split <;> rfl

theorem exchanged_swapped (hne : g0 ≠ g1) (h0 : (bitOf s g0).isSome) (h1 : (bitOf s g1).isSome) :
    Exchanged [(g0, g1)] s (swapped g0 g1 s) := by
  unfold swapped
  split
  · next heq => exact ⟨fun p hp => by rw [List.mem_singleton.mp hp]; exact ⟨heq, heq.symm⟩, fun _ _ => rfl⟩
  · next hdiff =>
    have hbit : ∀ g, bitOf (flipBit g1 (flipBit g0 s)) g =
        if g = g1 ∨ g = g0 then (bitOf s g).map not else bitOf s g := by
      intro g
      have h1' : (bitOf (flipBit g0 s) g1).isSome := by rw [bitOf_flipBit h0, if_neg hne.symm]; exact h1
      rw [bitOf_flipBit h1', bitOf_flipBit h0]
      by_cases hg1 : g = g1
      · rw [if_pos hg1, if_neg (fun h => hne (h.symm.trans hg1)), if_pos (.inl hg1)]
      · simp only [hg1, false_or, if_false]
    obtain ⟨b0, hb0⟩ := Option.isSome_iff_exists.mp h0
    obtain ⟨b1, hb1⟩ := Option.isSome_iff_exists.mp h1
    refine ⟨fun p hp => ?_, fun g hg => ?_⟩
    · rw [List.mem_singleton.mp hp, hbit, hbit, if_pos (.inr rfl), if_pos (.inl rfl), hb0, hb1]
      have hb : b0 ≠ b1 := fun h => hdiff (by rw [hb0, hb1, h])
      revert hb
      cases b0 <;> cases b1 <;> decide
    · simp only [namedBits_cons, List.mem_cons, not_or] at hg
      rw [hbit, if_neg (fun h => h.elim hg.2.1 hg.1)]

theorem flipBit_eq_setBuf {start e : Nat} {v : Byte} (h : s.bufAt (start + e / 8) = some v) :
    flipBit (8 * start + e) s = s.setBuf (start + e / 8) (v ^^^ s.maskOf e) := by
  have hmask : s.maskOf (8 * start + e) = s.maskOf e := by rw [State.maskOf, State.maskOf, Nat.mul_add_mod]
  rw [flipBit, mul_add_div_eight, h, hmask, Option.getD_some]

theorem bufAt_of_isSome_bitOf {start e : Nat} (h : (bitOf s (8 * start + e)).isSome) :
    ∃ v, s.bufAt (start + e / 8) = some v := by
  rw [isSome_bitOf, mul_add_div_eight] at h
  exact Option.isSome_iff_exists.mp h

/-- A swap inside the region whose two bytes are there goes on (R158). -/
theorem swapBits_eq_ok {start rem e0 e1 : Nat} (h0 : e0 / 8 < rem) (h1 : e1 / 8 < rem)
    (hb0 : (bitOf s (8 * start + e0)).isSome) (hb1 : (bitOf s (8 * start + e1)).isSome) :
    swapBits start rem e0 e1 s = .ok () (swapped (8 * start + e0) (8 * start + e1) s) := by
  obtain ⟨v0, hv0⟩ := bufAt_of_isSome_bitOf hb0
  obtain ⟨v1, hv1⟩ := bufAt_of_isSome_bitOf hb1
  have hiff : bitOf s (8 * start + e0) = bitOf s (8 * start + e1) ↔
      (v0 &&& s.maskOf e0 != 0) = (v1 &&& s.maskOf e1 != 0) := by
    rw [← bitAt_eq_bitOf, ← bitAt_eq_bitOf, bitAt_eq_getLsbD, bitAt_eq_getLsbD, hv0, hv1, and_maskOf_ne_zero,
      and_maskOf_ne_zero, Option.map_some, Option.map_some, Option.some_inj]
  unfold swapBits swapped
  rw [if_neg (by omega), readBuf_eq_ok.mpr ⟨hv0, rfl⟩, Result.ok_andThen, readBuf_eq_ok.mpr ⟨hv1, rfl⟩,
    Result.ok_andThen]
  by_cases heq : bitOf s (8 * start + e0) = bitOf s (8 * start + e1)
  · rw [if_pos heq, if_pos (hiff.mp heq)]
  · have hflip0 := flipBit_eq_setBuf hv0
    have hread : ∃ v, (flipBit (8 * start + e0) s).bufAt (start + e1 / 8) = some v := by
      rw [hflip0, bufAt_setBuf (lt_payLen_of_bufAt hv0)]
      split
      · exact ⟨_, rfl⟩
      · exact ⟨v1, hv1⟩
    obtain ⟨v, hv⟩ := hread
    rw [if_neg heq, if_neg (fun h => heq (hiff.mpr h)), writeBuf_eq_ok.mpr ⟨lt_payLen_of_bufAt hv0, rfl⟩,
      Result.ok_andThen, ← hflip0, readBuf_eq_ok.mpr ⟨hv, rfl⟩, Result.ok_andThen,
      writeBuf_eq_ok.mpr ⟨lt_payLen_of_bufAt hv, rfl⟩, flipBit_eq_setBuf hv]

/-- A swap inside the region with a byte that is not there stops the model. -/
theorem swapBits_eq_stuck {start rem e0 e1 : Nat} (h0 : e0 / 8 < rem) (h1 : e1 / 8 < rem)
    (h : bitOf s (8 * start + e0) = none ∨ bitOf s (8 * start + e1) = none) :
    ∃ x, swapBits start rem e0 e1 s = .stuck x := by
  rw [← Option.isNone_iff_eq_none, ← Option.isNone_iff_eq_none, ← Option.not_isSome, ← Option.not_isSome,
    isSome_bitOf, isSome_bitOf, mul_add_div_eight, mul_add_div_eight] at h
  unfold swapBits readBuf
  rw [if_neg (by omega)]
  cases hv0 : s.bufAt (start + e0 / 8) with
  | none => exact ⟨_, rfl⟩
  | some v0 =>
    cases hv1 : s.bufAt (start + e1 / 8) with
    | none => exact ⟨_, by simp only [Result.ok_andThen, hv1, Result.stuck_andThen]; rfl⟩
    | some v1 => simp [hv0, hv1] at h

/-- A swap beyond the region changes nothing (R159). -/
theorem swapBits_eq_raised {start rem e0 e1 : Nat} (h : rem ≤ e0 / 8 ∨ rem ≤ e1 / 8) :
    swapBits start rem e0 e1 s = .raised .bufferTooSmall s := by
  rw [swapBits, if_pos h]

end

/-- Settles O6: a swap that goes on exchanges one pair of bits. -/
theorem swapExchangesTwoBits : Obligations.SwapExchangesTwoBits := by
  unfold Obligations.SwapExchangesTwoBits
  intro start rem e0 e1 s
  refine ⟨fun hne h0 h1 hs0 hs1 => ?_, swapBits_eq_raised⟩
  rw [← mul_add_div_eight, ← isSome_bitOf] at hs0 hs1
  have hex := exchanged_swapped (by omega : 8 * start + e0 ≠ 8 * start + e1) hs0 hs1
  have hpair := hex.pairs _ (List.mem_singleton_self _)
  refine ⟨_, swapBits_eq_ok h0 h1 hs0 hs1, ?_, ?_, fun e hne0 hne1 => ?_, swapped_eq _ _ s⟩
  · rw [bitAt_eq_bitOf, bitAt_eq_bitOf, hpair.1]
  · rw [bitAt_eq_bitOf, bitAt_eq_bitOf, hpair.2]
  · rw [bitAt_eq_bitOf, bitAt_eq_bitOf]
    refine hex.others _ ?_
    simp only [namedBits_cons, List.mem_cons, not_or]
    exact ⟨by omega, by omega, List.not_mem_nil⟩

end Sys2Proof.Proofs
end

section
/-! SUPPORT. Operations that exchange a list of pairs of bits, and the walk of a slice as one of them
(spec/41_permutation.md R157 to R159): it goes on exactly where every bit named lies in the region and is there. -/

namespace Sys2Proof.Proofs
open Sys2Proof Sys2Proof.Machine

section
variable {s t u : State}

/-! ## Operations that exchange pairs of bits -/

/-- An operation that exchanges the pairs `ps`, of bits below byte `hi`: it goes on with all of them exchanged, raises
at a bit beyond, or stops the model at a bit that is not there. -/
inductive Swaps (hi : Nat) (ps : List (Nat × Nat)) (s : State) : Result Unit → Prop where
  | ok {t : State} (inside : ∀ g ∈ namedBits ps, g / 8 < hi ∧ (bitOf s g).isSome) (exchanged : Exchanged ps s t) :
    Swaps hi ps s (.ok () t)
  | raised (t : State) {g : Nat} (named : g ∈ namedBits ps) (beyond : hi ≤ g / 8) :
    Swaps hi ps s (.raised .bufferTooSmall t)
  | stuck (x : Fault) {g : Nat} (named : g ∈ namedBits ps) (below : g / 8 < hi) (absent : bitOf s g = none) :
    Swaps hi ps s (.stuck x)

section
variable {hi : Nat} {ps qs : List (Nat × Nat)} {r : Result Unit} {f : Unit → State → Result Unit}

theorem Swaps.of_ok (h : Swaps hi ps s (.ok () t)) :
    (∀ g ∈ namedBits ps, g / 8 < hi ∧ (bitOf s g).isSome) ∧ Exchanged ps s t := by
  cases h with | ok inside exchanged => exact ⟨inside, exchanged⟩

theorem Swaps.ok_of_inside (h : Swaps hi ps s r) (inside : ∀ g ∈ namedBits ps, g / 8 < hi ∧ (bitOf s g).isSome) :
    ∃ t, r = .ok () t ∧ Exchanged ps s t := by
  cases h with
  | ok _ exchanged => exact ⟨_, rfl, exchanged⟩
  | raised t named beyond => exact absurd (inside _ named).1 (Nat.not_lt.mpr beyond)
  | stuck x named below absent =>
    have hsome := (inside _ named).2
    rw [absent] at hsome
    cases hsome

theorem Swaps.raised_of_beyond (h : Swaps hi ps s r) (hread : ∀ g ∈ namedBits ps, g / 8 < hi → (bitOf s g).isSome)
    {g : Nat} (hg : g ∈ namedBits ps) (beyond : hi ≤ g / 8) : ∃ t, r = .raised .bufferTooSmall t := by
  cases h with
  | ok inside _ => exact absurd (inside g hg).1 (Nat.not_lt.mpr beyond)
  | raised t _ _ => exact ⟨t, rfl⟩
  | stuck x named below absent =>
    have hsome := hread _ named below
    rw [absent] at hsome
    cases hsome

/-- What an operation does to the bits does not speak of the other registers. -/
theorem Swaps.of_bits (h : Swaps hi ps t r) (hbits : ∀ g, bitOf t g = bitOf s g) : Swaps hi ps s r := by
  cases h with
  | ok inside exchanged =>
    refine .ok (fun g hg => hbits g ▸ inside g hg) ⟨fun p hp => ?_, fun g hg => ?_⟩
    · rw [← hbits, ← hbits]
      exact exchanged.pairs p hp
    · rw [← hbits]
      exact exchanged.others g hg
  | raised u named beyond => exact .raised u named beyond
  | stuck x named below absent => exact .stuck x named below (hbits _ ▸ absent)

/-- Two such operations in a row, on pairs that share no bit. -/
theorem Swaps.andThen (h : Swaps hi ps s r) (hd : (namedBits ps).Disjoint (namedBits qs))
    (hf : ∀ t, r = .ok () t → Swaps hi qs t (f () t)) : Swaps hi (ps ++ qs) s (r.andThen f) := by
  have hleft : ∀ {g}, g ∈ namedBits ps → g ∈ namedBits (ps ++ qs) := fun hg =>
    namedBits_append ps qs ▸ List.mem_append_left _ hg
  have hright : ∀ {g}, g ∈ namedBits qs → g ∈ namedBits (ps ++ qs) := fun hg =>
    namedBits_append ps qs ▸ List.mem_append_right _ hg
  cases h with
  | raised t named beyond => exact .raised t (hleft named) beyond
  | stuck x named below absent => exact .stuck x (hleft named) below absent
  | @ok t inside exchanged =>
    have hsame : ∀ g ∈ namedBits qs, bitOf t g = bitOf s g := fun g hg => exchanged.others g fun hp => hd hp hg
    have hrest := hf t rfl
    rw [Result.ok_andThen]
    generalize f () t = r' at hrest
    cases hrest with
    | raised v named beyond => exact .raised v (hright named) beyond
    | stuck x named below absent => exact .stuck x (hright named) below (hsame _ named ▸ absent)
    | ok inside' exchanged' =>
      refine .ok (fun g hg => ?_) (exchanged.append exchanged' hd)
      rw [namedBits_append, List.mem_append] at hg
      rcases hg with hg | hg
      · exact inside g hg
      · exact hsame g hg ▸ inside' g hg
end

/-! ## The walk -/

/-- What a swap comes to: it raises at an entry beyond the region, stops the model at a byte that is not there, or goes
on with the two bits swapped (R158, R159). -/
theorem swapBits_cases (start rem e0 e1 : Nat) (s : State) :
    (rem ≤ e0 / 8 ∨ rem ≤ e1 / 8) ∧ swapBits start rem e0 e1 s = .raised .bufferTooSmall s ∨
      (e0 / 8 < rem ∧ e1 / 8 < rem) ∧
        ((bitOf s (8 * start + e0) = none ∨ bitOf s (8 * start + e1) = none) ∧
            (∃ x, swapBits start rem e0 e1 s = .stuck x) ∨
          ((bitOf s (8 * start + e0)).isSome ∧ (bitOf s (8 * start + e1)).isSome) ∧
            swapBits start rem e0 e1 s = .ok () (swapped (8 * start + e0) (8 * start + e1) s)) := by
  by_cases hout : rem ≤ e0 / 8 ∨ rem ≤ e1 / 8
  · exact .inl ⟨hout, swapBits_eq_raised hout⟩
  obtain ⟨h0, h1⟩ : e0 / 8 < rem ∧ e1 / 8 < rem := by omega
  refine .inr ⟨⟨h0, h1⟩, ?_⟩
  by_cases hnone : bitOf s (8 * start + e0) = none ∨ bitOf s (8 * start + e1) = none
  · exact .inl ⟨hnone, swapBits_eq_stuck h0 h1 hnone⟩
  · rw [not_or, ← ne_eq, ← ne_eq, ← Option.isSome_iff_ne_none, ← Option.isSome_iff_ne_none] at hnone
    exact .inr ⟨hnone, swapBits_eq_ok h0 h1 hnone.1 hnone.2⟩

theorem swapBits_swaps {start rem e0 e1 : Nat} (hne : e0 ≠ e1) :
    Swaps (start + rem) [(8 * start + e0, 8 * start + e1)] s (swapBits start rem e0 e1 s) := by
  have hfirst : 8 * start + e0 ∈ namedBits [(8 * start + e0, 8 * start + e1)] := List.mem_cons_self
  have hsecond : 8 * start + e1 ∈ namedBits [(8 * start + e0, 8 * start + e1)] :=
    List.mem_cons_of_mem _ List.mem_cons_self
  rcases swapBits_cases start rem e0 e1 s with
    ⟨hout, hr⟩ | ⟨⟨h0, h1⟩, ⟨hnone, x, hr⟩ | ⟨⟨hs0, hs1⟩, hr⟩⟩ <;> rw [hr]
  · rcases hout with hout | hout
    · exact .raised s hfirst (by omega)
    · exact .raised s hsecond (by omega)
  · rcases hnone with hn | hn
    · exact .stuck x hfirst (by omega) hn
    · exact .stuck x hsecond (by omega) hn
  · refine .ok (fun g hg => ?_) (exchanged_swapped (by omega) hs0 hs1)
    simp only [namedBits_cons, List.mem_cons] at hg
    rcases hg with rfl | rfl | hg
    · exact ⟨by omega, hs0⟩
    · exact ⟨by omega, hs1⟩
    · cases hg

/-- A swap that raises has changed nothing, one that goes on has swapped two bits inside the region. -/
theorem swapBits_leaves_swapped {start rem e0 e1 : Nat} (h : (swapBits start rem e0 e1 s).Leaves t) :
    t = s ∨ (e0 / 8 < rem ∧ e1 / 8 < rem) ∧ ((bitOf s (8 * start + e0)).isSome ∧ (bitOf s (8 * start + e1)).isSome) ∧
      t = swapped (8 * start + e0) (8 * start + e1) s := by
  rcases swapBits_cases start rem e0 e1 s with ⟨_, hr⟩ | ⟨hin, ⟨_, x, hr⟩ | ⟨hsome, hr⟩⟩ <;> rw [hr] at h
  · exact .inl (Result.leaves_raised.mp h)
  · exact absurd h Result.leaves_stuck
  · exact .inr ⟨hin, hsome, Result.leaves_ok.mp h⟩

/-- A swap changes `BUF` alone. -/
theorem swapBits_leaves_buf {start rem e0 e1 : Nat} (h : (swapBits start rem e0 e1 s).Leaves t) :
    t = { s with buf := t.buf } := by
  rcases swapBits_leaves_swapped h with rfl | ⟨_, _, rfl⟩
  · rfl
  · exact swapped_eq _ _ s

/-- The walk draws nothing. -/
theorem walkFrom_leaves_prng {start rem pairs i : Nat} (h : (walkFrom start rem pairs i s).Leaves t) :
    t.prng = s.prng := by
  induction pairs generalizing i s t with
  | zero =>
    rw [Result.leaves_ok.mp h]
  | succ pairs ih =>
    unfold walkFrom at h
    split at h
    · exact Result.andThen_keeps (R := fun s t => t.prng = s.prng) (fun h h' => h'.trans h)
        (fun _ h => by rw [swapBits_leaves_buf h]) (fun _ _ _ _ h => ih h) h
    · exact absurd h Result.leaves_stuck

/-- Entries taken two at a time, as the walk takes them (R157). -/
def pairUp : List Nat → List (Nat × Nat)
  | e0 :: e1 :: es => (e0, e1) :: pairUp es
  | _ => []

theorem mem_of_mem_namedBits_pairUp {l : List Nat} {g : Nat} (h : g ∈ namedBits (pairUp l)) : g ∈ l := by
  induction l using pairUp.induct with
  | case1 e0 e1 es ih =>
    rw [pairUp, namedBits_cons, List.mem_cons, List.mem_cons] at h
    rcases h with rfl | rfl | h
    · exact List.mem_cons_self
    · exact List.mem_cons_of_mem _ List.mem_cons_self
    · exact List.mem_cons_of_mem _ (List.mem_cons_of_mem _ (ih h))
  | case2 l hl =>
    rw [pairUp.eq_2 l hl] at h
    cases h

theorem mem_pairUp {l : List Nat} {i e0 e1 : Nat} (h0 : l[2 * i]? = some e0) (h1 : l[2 * i + 1]? = some e1) :
    (e0, e1) ∈ pairUp l := by
  induction i generalizing l with
  | zero =>
    match l with
    | a :: b :: es =>
      obtain rfl := Option.some.inj h0
      obtain rfl := Option.some.inj h1
      exact List.mem_cons_self
    | [_] => cases h1
    | [] => cases h0
  | succ i ih =>
    match l with
    | a :: b :: es => exact List.mem_cons_of_mem _ (ih h0 h1)
    | [_] => cases h1
    | [] => cases h0

/-- The pairs of bits that the walk exchanges in a slice at `start`: those of the first `pairs` pairs of its entries. -/
def slicePairs (start pairs : Nat) (ord : List Nat) : List (Nat × Nat) :=
  pairUp ((ord.take (2 * pairs)).map fun e => 8 * start + e)

section
variable {start pairs k i e e0 e1 : Nat} {ord : List Nat}

theorem slicePairs_cons_cons :
    slicePairs start (pairs + 1) (e0 :: e1 :: ord) = (8 * start + e0, 8 * start + e1) :: slicePairs start pairs ord :=
  rfl

theorem mem_of_mem_namedBits_slicePairs {g : Nat} (h : g ∈ namedBits (slicePairs start pairs ord)) :
    ∃ e ∈ ord.take (2 * pairs), g = 8 * start + e := by
  obtain ⟨e, he, rfl⟩ := List.mem_map.mp (mem_of_mem_namedBits_pairUp h)
  exact ⟨e, he, rfl⟩

theorem mem_slicePairs (hi : i < pairs) (h0 : ord[2 * i]? = some e0) (h1 : ord[2 * i + 1]? = some e1) :
    (8 * start + e0, 8 * start + e1) ∈ slicePairs start pairs ord := by
  refine mem_pairUp (i := i) ?_ ?_
  · rw [List.getElem?_map, List.getElem?_take_of_lt (by omega), h0, Option.map_some]
  · rw [List.getElem?_map, List.getElem?_take_of_lt (by omega), h1, Option.map_some]

/-- Every participating entry names a bit of a pair. -/
theorem mem_namedBits_slicePairs (hlen : 2 * pairs ≤ ord.length) (hk : k < 2 * pairs) (he : ord[k]? = some e) :
    8 * start + e ∈ namedBits (slicePairs start pairs ord) := by
  obtain ⟨e0, h0⟩ : ∃ e0, ord[2 * (k / 2)]? = some e0 := ⟨_, List.getElem?_eq_getElem (by omega)⟩
  obtain ⟨e1, h1⟩ : ∃ e1, ord[2 * (k / 2) + 1]? = some e1 := ⟨_, List.getElem?_eq_getElem (by omega)⟩
  refine mem_namedBits.mpr ⟨_, mem_slicePairs (start := start) (by omega) h0 h1, ?_⟩
  rcases Nat.mod_two_eq_zero_or_one k with hmod | hmod
  · have hk' : 2 * (k / 2) = k := by omega
    rw [hk', he] at h0
    exact .inl (by rw [Option.some.inj h0])
  · have hk' : 2 * (k / 2) + 1 = k := by omega
    rw [hk', he] at h1
    exact .inr (by rw [Option.some.inj h1])

/-- No entry behind the participating ones names a bit of a pair. -/
theorem not_mem_namedBits_slicePairs (hnd : ord.Nodup) (hk : 2 * pairs ≤ k) (he : ord[k]? = some e) :
    8 * start + e ∉ namedBits (slicePairs start pairs ord) := by
  intro hg
  obtain ⟨e', he', heq⟩ := mem_of_mem_namedBits_slicePairs hg
  obtain rfl : e = e' := by omega
  have hdrop : e ∈ ord.drop (2 * pairs) := by
    refine List.mem_of_getElem? (i := k - 2 * pairs) ?_
    rw [List.getElem?_drop, Nat.add_sub_cancel' hk, he]
  exact List.disjoint_take_drop hnd (Nat.le_refl _) he' hdrop

/-- Bits exchanged along the pairs of a slice are what R157 asks of its order array. -/
theorem pairsSwapped_of_exchanged {ps : List (Nat × Nat)} {n : Nat} (h : Exchanged ps s t)
    (hsub : slicePairs start (n / 2) ord ⊆ ps) : PairsSwapped s t start ord n := by
  intro i e0 e1 hi h0 h1
  simp only [bitAt_eq_bitOf]
  exact h.pairs _ (hsub (mem_slicePairs (by omega) h0 h1))

/-- The walk exchanges the bits that its entries name, pair by pair (R157). -/
theorem walkFrom_swaps {rem : Nat} (hnd : s.ord.Nodup) (hlen : i + 2 * pairs ≤ s.ord.length) :
    Swaps (start + rem) (slicePairs start pairs (s.ord.drop i)) s (walkFrom start rem pairs i s) := by
  induction pairs generalizing i s with
  | zero => exact .ok nofun (.nil fun _ => rfl)
  | succ pairs ih =>
    have h0 : s.ord[i]? = some s.ord[i] := List.getElem?_eq_getElem (by omega)
    have h1 : s.ord[i + 1]? = some s.ord[i + 1] := List.getElem?_eq_getElem (by omega)
    have hdrop : s.ord.drop i = s.ord[i] :: s.ord[i + 1] :: s.ord.drop (i + 2) := by
      rw [List.drop_eq_getElem_cons (by omega), List.drop_eq_getElem_cons (by omega)]
    have hnd' := hdrop ▸ hnd.sublist (List.drop_sublist i s.ord)
    simp only [List.nodup_cons, List.mem_cons, not_or] at hnd'
    obtain ⟨⟨hne, hnot0⟩, hnot1, _⟩ := hnd'
    simp only [walkFrom, h0, h1]
    rw [hdrop, slicePairs_cons_cons, ← List.singleton_append]
    refine Swaps.andThen (Swaps.of_bits (swapBits_swaps hne) fun _ => rfl) ?_ fun t ht => ?_
    · intro g hg hg'
      obtain ⟨e, he, rfl⟩ := mem_of_mem_namedBits_slicePairs hg'
      have hmem := List.mem_of_mem_take he
      simp only [namedBits_cons, List.mem_cons] at hg
      rcases hg with heq | heq | hnil
      · exact hnot0 (by rwa [← Nat.add_left_cancel heq])
      · exact hnot1 (by rwa [← Nat.add_left_cancel heq])
      · cases hnil
    · have hord : t.ord = s.ord := by rw [swapBits_leaves_buf (.inl ⟨(), ht⟩)]
      rw [← hord]
      exact ih (hord ▸ hnd) (by rw [hord]; omega)
end

end
end Sys2Proof.Proofs
end

section
/-! SUPPORT. The slices and the call (spec/41_permutation.md R150 to R156): the pairs of bits that a call exchanges depend
on its operands and the configuration alone, and no byte outside its region is written. -/

namespace Sys2Proof.Proofs
open Sys2Proof Sys2Proof.Machine

section
variable {s t u : State}

/-! ## The slices -/

/-- The pairs that a slice at offset `pos` of the region exchanges, its order drawn from `p` on (R153, R154, R156). -/
def chunkPairs (base total slice : Nat) (reading : PartialLimit) (pos : Nat) (p : Prng) : List (Nat × Nat) :=
  slicePairs (base + pos) (participating reading slice (total - pos) / 2) (drawnOrder (slice * 8) p)

/-- The pairs of the slices from offset `pos` on, the draws going on from slice to slice (R152, R153). -/
def loopPairs (base total slice : Nat) (reading : PartialLimit) : Nat → Nat → Prng → List (Nat × Nat)
  | 0, _, _ => []
  | fuel + 1, pos, p =>
    if total ≤ pos then []
    else
      chunkPairs base total slice reading pos p ++
        loopPairs base total slice reading fuel (pos + slice) (Prng.next^[slice * 8] p)

section
variable {base total slice fuel pos g : Nat} {reading : PartialLimit} {p : Prng}

/-- The bits of a slice lie in it. -/
theorem bounds_of_mem_namedBits_chunkPairs (h : g ∈ namedBits (chunkPairs base total slice reading pos p)) :
    8 * (base + pos) ≤ g ∧ g < 8 * (base + pos + slice) := by
  obtain ⟨e, he, rfl⟩ := mem_of_mem_namedBits_slicePairs h
  have hlt := lt_of_mem_drawnOrder (List.mem_of_mem_take he)
  omega

/-- The draws of one slice more come before those of the others (R152). -/
theorem iterate_next_succ (k : Nat) (p : Prng) :
    Prng.next^[slice * 8 * (k + 1)] p = Prng.next^[slice * 8 * k] (Prng.next^[slice * 8] p) :=
  Function.iterate_add_apply Prng.next (slice * 8 * k) (slice * 8) p

/-- The pairs of the loop are those of its slices. -/
theorem mem_loopPairs {q : Nat × Nat} :
    q ∈ loopPairs base total slice reading fuel pos p ↔
      ∃ k, k < fuel ∧ pos + k * slice < total ∧
        q ∈ chunkPairs base total slice reading (pos + k * slice) (Prng.next^[slice * 8 * k] p) := by
  induction fuel generalizing pos p with
  | zero => simp [loopPairs]
  | succ fuel ih =>
    have hpos : ∀ k, pos + (k + 1) * slice = pos + slice + k * slice := fun k => by rw [Nat.succ_mul]; omega
    unfold loopPairs
    by_cases hend : total ≤ pos
    · rw [if_pos hend]
      refine ⟨nofun, ?_⟩
      rintro ⟨k, _, hk, _⟩
      omega
    · rw [if_neg hend, List.mem_append, ih]
      constructor
      · rintro (hq | ⟨k, hk, hlt, hq⟩)
        · exact ⟨0, Nat.succ_pos _, by omega, by simpa using hq⟩
        · exact ⟨k + 1, Nat.succ_lt_succ hk, (hpos k).symm ▸ hlt, by rw [hpos, iterate_next_succ]; exact hq⟩
      · rintro ⟨k, hk, hlt, hq⟩
        cases k with
        | zero => exact .inl (by simpa using hq)
        | succ k =>
          rw [hpos] at hlt
          rw [hpos, iterate_next_succ] at hq
          exact .inr ⟨k, Nat.lt_of_succ_lt_succ hk, hlt, hq⟩

theorem mem_namedBits_loopPairs :
    g ∈ namedBits (loopPairs base total slice reading fuel pos p) ↔
      ∃ k, k < fuel ∧ pos + k * slice < total ∧
        g ∈ namedBits (chunkPairs base total slice reading (pos + k * slice) (Prng.next^[slice * 8 * k] p)) := by
  simp only [mem_namedBits, mem_loopPairs]
  constructor
  · rintro ⟨q, ⟨k, hk, hlt, hq⟩, hg⟩
    exact ⟨k, hk, hlt, q, hq, hg⟩
  · rintro ⟨k, hk, hlt, q, hq, hg⟩
    exact ⟨q, ⟨k, hk, hlt, hq⟩, hg⟩

/-- A slice exchanges its pairs (R153). -/
theorem permuteSlice_swaps (hpos : pos < total) :
    Swaps (base + total) (chunkPairs base total slice s.cfg.partialLimit pos s.prng) s
      (permuteSlice base total slice pos s) := by
  have hbytes : base + total = base + pos + (total - pos) := by omega
  have hcount := participating_le s.cfg.partialLimit slice (total - pos)
  obtain ⟨pool, pe, hok⟩ := buildOrder_eq_ok (slice * 8)
    { s with pe := { s.pe with pos := BitVec.ofNat 32 pos, rem := BitVec.ofNat 32 (total - pos), j := 0, i := 0 } }
  rw [permuteSlice, hok, Result.ok_andThen, hbytes]
  have hwalk := walkFrom_swaps (start := base + pos) (rem := total - pos) (i := 0)
    (pairs := participating s.cfg.partialLimit slice (total - pos) / 2)
    (s := { s with
      ord := drawnOrder (slice * 8) s.prng, pool := pool, prng := Prng.next^[slice * 8] s.prng
      pe := { pe with p := BitVec.ofNat 35 (participating s.cfg.partialLimit slice (total - pos)) } })
    (drawnOrder_nodup _ _) (by rw [drawnOrder_length]; omega)
  exact hwalk.of_bits fun _ => rfl

/-- A slice makes a draw for each entry of its order array (R154). -/
theorem permuteSlice_leaves_prng (h : (permuteSlice base total slice pos s).Leaves t) :
    t.prng = Prng.next^[slice * 8] s.prng := by
  obtain ⟨pool, pe, hok⟩ := buildOrder_eq_ok (slice * 8)
    { s with pe := { s.pe with pos := BitVec.ofNat 32 pos, rem := BitVec.ofNat 32 (total - pos), j := 0, i := 0 } }
  rw [permuteSlice, hok, Result.ok_andThen] at h
  exact walkFrom_leaves_prng h

/-- The loop exchanges the pairs of its slices, which share no bit (R153). -/
theorem sliceLoop_swaps :
    Swaps (base + total) (loopPairs base total slice s.cfg.partialLimit fuel pos s.prng) s
      (sliceLoop base total slice fuel pos s) := by
  induction fuel generalizing pos s with
  | zero => exact .ok nofun (.nil fun _ => rfl)
  | succ fuel ih =>
    unfold sliceLoop loopPairs
    by_cases hend : total ≤ pos
    · rw [if_pos hend, if_pos hend]
      exact .ok nofun (.nil fun _ => rfl)
    · rw [if_neg hend, if_neg hend]
      refine Swaps.andThen (permuteSlice_swaps (by omega)) ?_ fun t ht => ?_
      · intro g hg hg'
        obtain ⟨k, _, _, hk⟩ := mem_namedBits_loopPairs.mp hg'
        have hfirst := bounds_of_mem_namedBits_chunkPairs hg
        have hlater := bounds_of_mem_namedBits_chunkPairs hk
        omega
      · have hcfg : t.cfg = s.cfg := by rw [(permuteSlice_leaves (.inl ⟨(), ht⟩)).same]
        rw [← permuteSlice_leaves_prng (.inl ⟨(), ht⟩), ← hcfg]
        exact ih

/-- The PRNG runs on over `n` slices (R152, R154). -/
theorem sliceLoop_prng {n : Nat} (hn : n ≤ fuel) (hslices : ∀ k, pos + k * slice < total ↔ k < n)
    (h : sliceLoop base total slice fuel pos s = .ok () t) : t.prng = Prng.next^[slice * 8 * n] s.prng := by
  induction fuel generalizing pos n s with
  | zero =>
    obtain rfl : n = 0 := Nat.le_zero.mp hn
    cases h
    rfl
  | succ fuel ih =>
    have hfirst := hslices 0
    rw [Nat.zero_mul, Nat.add_zero] at hfirst
    unfold sliceLoop at h
    split at h
    · obtain rfl : n = 0 := by omega
      cases h
      rfl
    · obtain ⟨m, rfl⟩ : ∃ m, n = m + 1 := ⟨n - 1, by omega⟩
      obtain ⟨_, u, hu, hrest⟩ := Result.andThen_eq_ok.mp h
      have hshift : ∀ k, pos + slice + k * slice < total ↔ k < m := fun k => by
        have hk := hslices (k + 1)
        rw [Nat.succ_mul] at hk
        omega
      rw [ih (Nat.le_of_succ_le_succ hn) hshift hrest, permuteSlice_leaves_prng (.inl ⟨_, hu⟩), iterate_next_succ]
end

/-! ## The call -/

section
variable {base total slice k g : Nat} {m a : Word}

/-- The pairs of bits that a call exchanges: those of its slices, drawn from the seed on (R152). -/
def callPairs (base total slice : Nat) (reading : PartialLimit) (m a : Word) : List (Nat × Nat) :=
  loopPairs base total slice reading (total + 1) 0 (Prng.seed m a)

theorem permuteChunks_of_zero (base total : Nat) (m a : Word) (s : State) :
    ∃ pe, permuteChunks base total 0 m a s = .raised .bufferTooSmall { s with pe := pe } :=
  ⟨_, rfl⟩

theorem permuteChunks_of_capOrder (hcap : s.cfg.capOrder < slice * 8) :
    ∃ pe, permuteChunks base total slice m a s = .raised .allocationFailure { s with pe := pe } := by
  have hbits : ¬ slice * 8 < Params.minOrderBits := by
    rw [Params.minOrderBits]
    omega
  exact ⟨_, by rw [permuteChunks, if_neg hbits, if_pos hcap]⟩

/-- Past the entry checks the PRNG is seeded and the slices follow (R151, R152). -/
theorem permuteChunks_eq_sliceLoop (hslice : slice ≠ 0) (hcap : slice * 8 ≤ s.cfg.capOrder) :
    ∃ pe, permuteChunks base total slice m a s =
      sliceLoop base total slice (total + 1) 0 (({ s with pe := pe } : State).setPrng (Prng.seed m a)) := by
  have hbits : ¬ slice * 8 < Params.minOrderBits := by
    rw [Params.minOrderBits]
    omega
  exact ⟨_, by rw [permuteChunks, if_neg hbits, if_neg (Nat.not_lt.mpr hcap)]⟩

/-- A call that succeeds has passed the entry checks (R151). -/
theorem checks_of_permuteChunks_eq_ok (h : permuteChunks base total slice m a s = .ok () t) :
    slice ≠ 0 ∧ slice * 8 ≤ s.cfg.capOrder := by
  have hslice : slice ≠ 0 := by
    rintro rfl
    obtain ⟨pe, hraised⟩ := permuteChunks_of_zero base total m a s
    rw [hraised] at h
    cases h
  refine ⟨hslice, Nat.not_lt.mp fun hcap => ?_⟩
  obtain ⟨pe, hraised⟩ := permuteChunks_of_capOrder (base := base) (total := total) (m := m) (a := a) hcap
  rw [hraised] at h
  cases h

/-- A call exchanges pairs of bits that depend on its operands and the configuration alone. -/
theorem permuteChunks_swaps (hslice : slice ≠ 0) (hcap : slice * 8 ≤ s.cfg.capOrder) :
    Swaps (base + total) (callPairs base total slice s.cfg.partialLimit m a) s
      (permuteChunks base total slice m a s) := by
  obtain ⟨pe, hloop⟩ := permuteChunks_eq_sliceLoop (base := base) (total := total) (m := m) (a := a) hslice hcap
  rw [hloop]
  exact (sliceLoop_swaps (s := ({ s with pe := pe } : State).setPrng (Prng.seed m a))).of_bits fun _ => rfl

/-- A call over `n` slices makes their draws and no other (R145). -/
theorem permuteChunks_prng {n : Nat} (hslices : ∀ k, k * slice < total ↔ k < n)
    (h : permuteChunks base total slice m a s = .ok () t) :
    t.prng = Prng.next^[slice * 8 * n] (Prng.seed m a) := by
  obtain ⟨hslice, hcap⟩ := checks_of_permuteChunks_eq_ok h
  obtain ⟨pe, hloop⟩ := permuteChunks_eq_sliceLoop (base := base) (total := total) (m := m) (a := a) hslice hcap
  have hn : n ≤ total := by
    by_contra hlt
    have hpos := (hslices total).mpr (Nat.not_le.mp hlt)
    have hle := Nat.le_mul_of_pos_right total (Nat.pos_of_ne_zero hslice)
    omega
  rw [hloop] at h
  exact sliceLoop_prng (Nat.le_succ_of_le hn) (fun k => by rw [Nat.zero_add]; exact hslices k) h

theorem mem_namedBits_callPairs {reading : PartialLimit} :
    g ∈ namedBits (callPairs base total slice reading m a) ↔
      ∃ k, k < total + 1 ∧ k * slice < total ∧
        g ∈ namedBits (chunkPairs base total slice reading (k * slice) (Prng.next^[slice * 8 * k] (Prng.seed m a))) := by
  simp only [callPairs, mem_namedBits_loopPairs, Nat.zero_add]

theorem chunkPairs_subset_callPairs {reading : PartialLimit} (hslice : slice ≠ 0) (hk : k * slice < total) :
    chunkPairs base total slice reading (k * slice) (Prng.next^[slice * 8 * k] (Prng.seed m a)) ⊆
      callPairs base total slice reading m a := by
  intro q hq
  have hle := Nat.le_mul_of_pos_right k (Nat.pos_of_ne_zero hslice)
  refine mem_loopPairs.mpr ⟨k, by omega, by omega, ?_⟩
  rwa [Nat.zero_add]

/-- No bit of a call lies before its region. -/
theorem le_of_mem_namedBits_callPairs {reading : PartialLimit}
    (h : g ∈ namedBits (callPairs base total slice reading m a)) :
    base ≤ g / 8 := by
  obtain ⟨k, _, _, hk⟩ := mem_namedBits_callPairs.mp h
  have hbounds := bounds_of_mem_namedBits_chunkPairs hk
  omega

/-! ## What a call leaves of the bytes -/

/-- From `s` to `t` no byte of `BUF` outside the addresses `lo` to `hi - 1` has changed, nor one beyond the payload. -/
structure Confined (lo hi : Nat) (s t : State) : Prop where
  payLen : t.payLen = s.payLen
  reads : ∀ x, x < lo ∨ hi ≤ x ∨ s.payLen.toNat ≤ x → t.buf.read x = s.buf.read x

section
variable {lo hi x : Nat}

theorem Confined.of_buf (hlen : t.payLen = s.payLen) (hbuf : t.buf = s.buf) : Confined lo hi s t :=
  ⟨hlen, fun _ _ => by rw [hbuf]⟩

theorem Confined.trans (h : Confined lo hi s t) (h' : Confined lo hi t u) : Confined lo hi s u :=
  ⟨h'.payLen.trans h.payLen, fun x hx => (h'.reads x (h.payLen.symm ▸ hx)).trans (h.reads x hx)⟩

theorem read_flipBit_of_ne {g : Nat} (hx : g / 8 ≠ x) (s : State) : (flipBit g s).buf.read x = s.buf.read x :=
  Memory.read_write_other _ _ _ _ hx

theorem swapBits_confined {start rem e0 e1 : Nat} (h : (swapBits start rem e0 e1 s).Leaves t) :
    Confined start (start + rem) s t := by
  have hlen : t.payLen = s.payLen := by rw [swapBits_leaves_buf h]
  refine ⟨hlen, fun x hx => ?_⟩
  rcases swapBits_leaves_swapped h with rfl | ⟨⟨h0, h1⟩, ⟨hs0, hs1⟩, rfl⟩
  · rfl
  · obtain ⟨v0, hv0⟩ := bufAt_of_isSome_bitOf hs0
    obtain ⟨v1, hv1⟩ := bufAt_of_isSome_bitOf hs1
    have hlt0 := lt_payLen_of_bufAt hv0
    have hlt1 := lt_payLen_of_bufAt hv1
    unfold swapped
    split
    · rfl
    · rw [read_flipBit_of_ne (by omega), read_flipBit_of_ne (by omega)]

theorem walkFrom_confined {start rem pairs i : Nat} (h : (walkFrom start rem pairs i s).Leaves t) :
    Confined start (start + rem) s t := by
  induction pairs generalizing i s t with
  | zero => exact Result.leaves_ok.mp h ▸ .of_buf rfl rfl
  | succ pairs ih =>
    unfold walkFrom at h
    split at h
    · have hpe : Confined start (start + rem) s { s with pe := { s.pe with i := BitVec.ofNat 35 i } } :=
        .of_buf rfl rfl
      exact Result.andThen_keeps (R := Confined start (start + rem)) Confined.trans
        (fun _ h => hpe.trans (swapBits_confined h)) (fun _ _ _ _ h => ih h) h
    · exact absurd h Result.leaves_stuck

theorem permuteSlice_confined {pos : Nat} (hpos : pos < total) (h : (permuteSlice base total slice pos s).Leaves t) :
    Confined base (base + total) s t := by
  obtain ⟨pool, pe, hok⟩ := buildOrder_eq_ok (slice * 8)
    { s with pe := { s.pe with pos := BitVec.ofNat 32 pos, rem := BitVec.ofNat 32 (total - pos), j := 0, i := 0 } }
  rw [permuteSlice, hok, Result.ok_andThen] at h
  have hwalk := walkFrom_confined h
  refine ⟨hwalk.payLen, fun x hx => hwalk.reads x ?_⟩
  rcases hx with hbefore | hbehind | hbeyond
  · exact .inl (by omega)
  · exact .inr (.inl (by omega))
  · exact .inr (.inr hbeyond)

theorem sliceLoop_confined {fuel pos : Nat} (h : (sliceLoop base total slice fuel pos s).Leaves t) :
    Confined base (base + total) s t := by
  induction fuel generalizing pos s t with
  | zero => exact Result.leaves_ok.mp h ▸ .of_buf rfl rfl
  | succ fuel ih =>
    unfold sliceLoop at h
    split at h
    · exact Result.leaves_ok.mp h ▸ .of_buf rfl rfl
    · next hpos =>
      exact Result.andThen_keeps (R := Confined base (base + total)) Confined.trans
        (fun _ h => permuteSlice_confined (Nat.not_le.mp hpos) h) (fun _ _ _ _ h => ih h) h

/-- A call writes no byte outside its region (R150). -/
theorem permuteChunks_confined (h : (permuteChunks base total slice m a s).Leaves t) :
    Confined base (base + total) s t := by
  by_cases hslice : slice = 0
  · subst hslice
    obtain ⟨pe, hraised⟩ := permuteChunks_of_zero base total m a s
    rw [hraised, Result.leaves_raised] at h
    exact h ▸ .of_buf rfl rfl
  by_cases hcap : slice * 8 ≤ s.cfg.capOrder
  · obtain ⟨pe, hloop⟩ := permuteChunks_eq_sliceLoop (base := base) (total := total) (m := m) (a := a) hslice hcap
    rw [hloop] at h
    have hslices := sliceLoop_confined h
    exact ⟨hslices.payLen, hslices.reads⟩
  · obtain ⟨pe, hraised⟩ := permuteChunks_of_capOrder (base := base) (total := total) (m := m) (a := a)
      (Nat.not_le.mp hcap)
    rw [hraised, Result.leaves_raised] at h
    exact h ▸ .of_buf rfl rfl
end
end
end

end Sys2Proof.Proofs
end

section
/-! SUPPORT. The statements about `permute_chunks` (spec/41_permutation.md R150 to R160). -/

namespace Sys2Proof.Proofs
open Sys2Proof Sys2Proof.Machine

/-- Settles O5: every part of a call is confined to its region. -/
theorem permuteTouchesOnlyItsRegion : Obligations.PermuteTouchesOnlyItsRegion := by
  unfold Obligations.PermuteTouchesOnlyItsRegion
  intro base total slice m a s t h x hx
  exact (permuteChunks_confined h).reads x (hx.imp_right .inl)

/-- Settles O4: each entry check raises before the seeding, and an empty region ends the loop at once. -/
theorem permuteChecksItsSliceFirst : Obligations.PermuteChecksItsSliceFirst := by
  unfold Obligations.PermuteChecksItsSliceFirst
  intro base total slice m a s
  refine ⟨?_, fun _ hcap => ?_, fun hslice hcap => ?_⟩
  · rintro rfl
    obtain ⟨pe, hraised⟩ := permuteChunks_of_zero base total m a s
    exact ⟨_, hraised, rfl, rfl⟩
  · obtain ⟨pe, hraised⟩ := permuteChunks_of_capOrder (base := base) (total := total) (m := m) (a := a) hcap
    exact ⟨_, hraised, rfl, rfl⟩
  · rintro rfl
    obtain ⟨pe, hloop⟩ := permuteChunks_eq_sliceLoop (base := base) (total := 0) (m := m) (a := a) hslice hcap
    rw [hloop, sliceLoop, if_pos (Nat.le_refl 0)]
    exact ⟨_, rfl, rfl, rfl⟩

/-- In a partial slice the configured reading limits the participating count (R156). -/
theorem participating_partial {reading : PartialLimit} {slice rem : Nat} (h : rem < slice) :
    participating reading slice rem =
      if reading = .literal then min slice (rem * 8) else min (slice * 8) (rem * 8) := by
  rw [participating, if_neg (Nat.not_le.mpr h)]
  cases reading <;> rfl

/-- A slice of a region of whole slices is full (R153). -/
theorem mul_add_le_of_whole {total slice k : Nat} (hwhole : total % slice = 0) (hk : k * slice < total) :
    k * slice + slice ≤ total := by
  obtain ⟨n, rfl⟩ := Nat.dvd_of_mod_eq_zero hwhole
  rw [Nat.mul_comm slice] at hk ⊢
  rw [← Nat.succ_mul]
  exact Nat.mul_le_mul_right slice (Nat.succ_le_of_lt (Nat.lt_of_mul_lt_mul_right hk))

/-- Over whole slices every entry of every order array takes part, and none names a bit beyond the region (R159). -/
theorem lt_of_mem_namedBits_callPairs {base total slice g : Nat} {reading : PartialLimit} {m a : Word}
    (hwhole : total % slice = 0) (h : g ∈ namedBits (callPairs base total slice reading m a)) : g / 8 < base + total := by
  obtain ⟨k, _, hk, hg⟩ := mem_namedBits_callPairs.mp h
  have hbounds := bounds_of_mem_namedBits_chunkPairs hg
  have hfits := mul_add_le_of_whole hwhole hk
  omega

/-- The bits of a readable region are there. -/
theorem isSome_bitOf_of_region {base total g : Nat} {s : State}
    (hread : ∀ j, j < total → (s.bufAt (base + j)).isSome = true) (hlo : base ≤ g / 8) (hhi : g / 8 < base + total) :
    (bitOf s g).isSome := by
  have hbyte := hread (g / 8 - base) (by omega)
  rwa [Nat.add_sub_cancel' hlo, ← isSome_bitOf] at hbyte

/-- The order array that `build_order()` leaves is the one drawn from the PRNG it found. -/
theorem ord_of_buildOrder_eq_ok {n : Nat} {s u : State} (h : buildOrder n s = .ok () u) :
    u.ord = drawnOrder n s.prng := by
  obtain ⟨pool, pe, hok⟩ := buildOrder_eq_ok n s
  rw [hok] at h
  cases h
  rfl

/-- Whole slices: the call succeeds, with its draws, and exchanges the pairs of each slice. -/
theorem permuteChunks_wholeSlices {base total slice : Nat} {m a : Word} {s : State} (hslice : slice ≠ 0)
    (hcap : slice * 8 ≤ s.cfg.capOrder) (hwhole : total % slice = 0)
    (hread : ∀ j, j < total → (s.bufAt (base + j)).isSome = true) :
    ∃ t, permuteChunks base total slice m a s = .ok () t ∧
      t.prng = Prng.next^[slice * 8 * (total / slice)] (Prng.seed m a) ∧
      ∀ q, q < total / slice →
        PairsSwapped s t (base + q * slice)
          (drawnOrder (slice * 8) (Prng.next^[slice * 8 * q] (Prng.seed m a))) (slice * 8) := by
  have hcount : ∀ q, q * slice < total ↔ q < total / slice := fun q => by
    obtain ⟨n, rfl⟩ := Nat.dvd_of_mod_eq_zero hwhole
    have hpos := Nat.pos_of_ne_zero hslice
    rw [Nat.mul_div_cancel_left n hpos, Nat.mul_comm slice, Nat.mul_lt_mul_right hpos]
  have hswaps := permuteChunks_swaps (base := base) (total := total) (m := m) (a := a) hslice hcap
  obtain ⟨t, ht, hex⟩ := hswaps.ok_of_inside fun g hg =>
    have hlt := lt_of_mem_namedBits_callPairs hwhole hg
    ⟨hlt, isSome_bitOf_of_region hread (le_of_mem_namedBits_callPairs hg) hlt⟩
  refine ⟨t, ht, permuteChunks_prng hcount ht, fun q hq => pairsSwapped_of_exchanged hex ?_⟩
  have hqlt := (hcount q).mpr hq
  have hfits := mul_add_le_of_whole hwhole hqlt
  have hsub := chunkPairs_subset_callPairs (base := base) (reading := s.cfg.partialLimit) (m := m) (a := a) hslice hqlt
  rwa [chunkPairs, participating_full (by omega)] at hsub

/-- The pairs of a call on one partial slice are those of that slice. -/
theorem mem_namedBits_callPairs_partial {base rem slice g : Nat} {reading : PartialLimit} {m a : Word} (hpos : 0 < rem)
    (hlt : rem < slice) :
    g ∈ namedBits (callPairs base rem slice reading m a) ↔
      g ∈ namedBits (slicePairs base (participating reading slice rem / 2) (drawnOrder (slice * 8) (Prng.seed m a))) := by
  rw [mem_namedBits_callPairs]
  constructor
  · rintro ⟨k, _, hk, hg⟩
    obtain rfl : k = 0 := by
      by_contra hne
      have hle := Nat.le_mul_of_pos_left slice (Nat.pos_of_ne_zero hne)
      omega
    simpa [chunkPairs] using hg
  · intro hg
    exact ⟨0, Nat.succ_pos _, by omega, by simpa [chunkPairs] using hg⟩

section
variable {base rem slice : Nat} {m a : Word} {s : State}

/-- A partial slice with a participating entry beyond the region raises (R159). -/
theorem permuteChunks_partial_raises {k e : Nat} (hpos : 0 < rem) (hlt : rem < slice)
    (hcap : slice * 8 ≤ s.cfg.capOrder) (hread : ∀ j, j < rem → (s.bufAt (base + j)).isSome = true)
    (hk : k < 2 * (participating s.cfg.partialLimit slice rem / 2))
    (he : (drawnOrder (slice * 8) (Prng.seed m a))[k]? = some e) (hbeyond : rem ≤ e / 8) :
    ∃ t, permuteChunks base rem slice m a s = .raised .bufferTooSmall t := by
  have hle := participating_le s.cfg.partialLimit slice rem
  have hswaps := permuteChunks_swaps (base := base) (total := rem) (m := m) (a := a) (by omega : slice ≠ 0) hcap
  refine hswaps.raised_of_beyond (g := 8 * base + e)
    (fun g hg hin => isSome_bitOf_of_region hread (le_of_mem_namedBits_callPairs hg) hin) ?_ (by omega)
  rw [mem_namedBits_callPairs_partial hpos hlt]
  exact mem_namedBits_slicePairs (by rw [drawnOrder_length]; omega) hk he

/-- A partial slice whose participating entries all lie in the region exchanges their bits and no other (R157). -/
theorem permuteChunks_partial_ok (hpos : 0 < rem) (hlt : rem < slice) (hcap : slice * 8 ≤ s.cfg.capOrder)
    (hread : ∀ j, j < rem → (s.bufAt (base + j)).isSome = true)
    (hinside : ∀ k e, k < 2 * (participating s.cfg.partialLimit slice rem / 2) →
      (drawnOrder (slice * 8) (Prng.seed m a))[k]? = some e → e / 8 < rem) :
    ∃ t, permuteChunks base rem slice m a s = .ok () t ∧ t.prng = Prng.next^[slice * 8] (Prng.seed m a) ∧
      Exchanged (callPairs base rem slice s.cfg.partialLimit m a) s t := by
  have hswaps := permuteChunks_swaps (base := base) (total := rem) (m := m) (a := a) (by omega : slice ≠ 0) hcap
  obtain ⟨t, ht, hex⟩ := hswaps.ok_of_inside fun g hg => by
    obtain ⟨e, he, rfl⟩ := mem_of_mem_namedBits_slicePairs ((mem_namedBits_callPairs_partial hpos hlt).mp hg)
    obtain ⟨k, hk, hke⟩ := List.mem_take_iff_getElem.mp he
    have hin := hinside k e (by omega) (by rw [← hke, List.getElem?_eq_getElem])
    have hbyte : (8 * base + e) / 8 < base + rem := by omega
    exact ⟨hbyte, isSome_bitOf_of_region hread (by omega) hbyte⟩
  have hone : ∀ k, k * slice < rem ↔ k < 1 := fun k => by
    refine ⟨fun hk => ?_, fun hk => ?_⟩
    · by_contra hge
      have hle := Nat.le_mul_of_pos_left slice (Nat.not_lt.mp hge)
      omega
    · obtain rfl : k = 0 := by omega
      omega
  have hprng := permuteChunks_prng hone ht
  rw [Nat.mul_one] at hprng
  exact ⟨t, ht, hprng, hex⟩
end

/-- Settles O7: over whole slices every bit named is in the region; in a partial slice the call raises at the first
entry that names one beyond it. -/
theorem wholeSlicesNeverFault : Obligations.WholeSlicesNeverFault := by
  unfold Obligations.WholeSlicesNeverFault
  refine ⟨?_, ?_⟩
  · intro base total slice m a s hslice hcap hwhole hread
    obtain ⟨t, ht, hprng, hpairs⟩ := permuteChunks_wholeSlices (m := m) (a := a) hslice hcap hwhole hread
    refine ⟨t, ht, hprng, fun q u hq hu => ?_⟩
    rw [ord_of_buildOrder_eq_ok hu]
    exact hpairs q hq
  · intro base rem slice p m a s u hpos hlt hcap hread hp hu
    rw [← participating_partial hlt] at hp
    rw [hp, ord_of_buildOrder_eq_ok hu, State.setPrng_prng]
    refine ⟨?_, fun hinside => ?_⟩
    · rintro ⟨k, e, hk, he, hbeyond⟩
      exact permuteChunks_partial_raises hpos hlt hcap hread hk he hbeyond
    · obtain ⟨t, ht, hprng, hex⟩ := permuteChunks_partial_ok hpos hlt hcap hread hinside
      refine ⟨t, ht, hprng, pairsSwapped_of_exchanged hex ?_, fun k e hk he => ?_⟩
      · have hsub := chunkPairs_subset_callPairs (base := base) (slice := slice) (k := 0)
          (reading := s.cfg.partialLimit) (m := m) (a := a) (by omega) (by rwa [Nat.zero_mul])
        simpa [chunkPairs] using hsub
      · rw [bitAt_eq_bitOf, bitAt_eq_bitOf]
        refine hex.others _ fun hg => ?_
        exact not_mem_namedBits_slicePairs (drawnOrder_nodup _ _) hk he ((mem_namedBits_callPairs_partial hpos hlt).mp hg)

/-- Settles O8: the second call exchanges the same pairs again, and each byte of the payload is its bits. -/
theorem permuteIsItsOwnInverse : Obligations.PermuteIsItsOwnInverse := by
  unfold Obligations.PermuteIsItsOwnInverse
  intro base total slice m a s t hwf ht
  obtain ⟨hslice, hcap⟩ := checks_of_permuteChunks_eq_ok ht
  have hst : PermFrame s t := permuteChunks_leaves (.inl ⟨_, ht⟩)
  have hcfg : t.cfg = s.cfg := by rw [hst.same]
  have hfirst := permuteChunks_swaps (base := base) (total := total) (m := m) (a := a) hslice hcap
  rw [ht] at hfirst
  obtain ⟨hinside, hex⟩ := hfirst.of_ok
  have hsecond := permuteChunks_swaps (base := base) (total := total) (m := m) (a := a) (s := t) hslice
    (hcfg.symm ▸ hcap)
  rw [hcfg] at hsecond
  obtain ⟨u, hu, hex'⟩ := hsecond.ok_of_inside fun g hg =>
    ⟨(hinside g hg).1, (hex.isSome (fun g hg => (hinside g hg).2) g).trans (hinside g hg).2⟩
  have htu : PermFrame t u := permuteChunks_leaves (.inl ⟨_, hu⟩)
  have hsu := hst.trans htu
  have hconfined := (permuteChunks_confined (.inl ⟨_, ht⟩)).trans (permuteChunks_confined (.inl ⟨_, hu⟩))
  refine ⟨u, hu, Memory.eq_of_read (hsu.wf hwf) hwf fun x => ?_⟩
  by_cases hx : x < s.payLen.toNat
  · have hbyte := bufAt_eq_of_bitOf_eq (by rw [hsu.same]) (hex.twice hex') x
    rwa [State.bufAt, State.bufAt, hconfined.payLen, if_pos hx, if_pos hx] at hbyte
  · exact hconfined.reads x (.inr (.inr (Nat.not_lt.mp hx)))

end Sys2Proof.Proofs
end

section
/-! SUPPORT. The two permutation phases (spec/42_stage1.md R171, spec/43_stage2.md R194): one call of `permute_chunks` over
whole slices, then the next phase. -/

namespace Sys2Proof.Proofs
open Sys2Proof Sys2Proof.Machine

/-- A step that is one call of `permute_chunks` over whole slices goes on to its next phase with what the call leaves. -/
theorem step_of_wholeSlices {s : State} {base total slice : Nat} {m a : Word} {ph : Phase} (hbusy : s.status = .busy)
    (hphase : busyResult s = (permuteChunks base total slice m a s).andThen fun _ u => .ok () (u.enter ph))
    (hslice : slice ≠ 0) (hcap : slice * 8 ≤ s.cfg.capOrder) (hwhole : total % slice = 0)
    (hread : ∀ j, j < total → (s.bufAt (base + j)).isSome = true) :
    ∃ t, step s = .next t ∧ t.status = .busy ∧ t.phase = ph ∧
      t.prng = Prng.next^[slice * 8 * (total / slice)] (Prng.seed m a) ∧
      (∀ x, x < base ∨ base + total ≤ x → t.buf.read x = s.buf.read x) ∧
      t = { s with phase := ph, buf := t.buf, prng := t.prng, pe := t.pe, pool := t.pool, ord := t.ord } ∧
      ∃ u, permuteChunks base total slice m a s = .ok () u ∧ t = u.enter ph := by
  obtain ⟨u, hu, hprng, _⟩ := permuteChunks_wholeSlices (m := m) (a := a) hslice hcap hwhole hread
  have hframe : PermFrame s u := permuteChunks_leaves (.inl ⟨_, hu⟩)
  have hstep : step s = .next (u.enter ph) := by
    rw [step_of_busy hbusy, hphase, hu]
    rfl
  refine ⟨u.enter ph, hstep, ?_, rfl, hprng, fun x hx => ?_, ?_, u, hu, rfl⟩
  · rw [State.enter_status, hframe.same]
    exact hbusy
  · exact (permuteChunks_confined (.inl ⟨_, hu⟩)).reads x (hx.imp_right .inl)
  · rw [hframe.same]
    rfl

theorem busyResult_s1a {s : State} (h : s.phase = .s1a) : busyResult s = passA s := by
  rw [busyResult, h]

theorem busyResult_s2Perm {s : State} (h : s.phase = .s2Perm) : busyResult s = permuteLeading s := by
  rw [busyResult, h]

/-- Settles O9: each phase is one call over whole slices, on the end of the payload and on the front of the decoded
bytes. -/
theorem permutationPhases : Obligations.PermutationPhases := by
  unfold Obligations.PermutationPhases
  rintro s hbusy ⟨hcap, _⟩
  refine ⟨fun hphase hlen hread => ?_, fun hphase hlen hread => ?_⟩
  · obtain ⟨t, hstep, hstatus, hnext, hprng, houtside, hframe, hcall⟩ :=
      step_of_wholeSlices hbusy (busyResult_s1a hphase)
        (by decide) (Nat.le_trans (by decide) hcap)
        (by simp only [Params.s1Region, Params.s1Slice]; omega)
        fun j hj => hread _ (by omega)
    exact ⟨t, hstep, hstatus, hnext, hprng, fun x hx => houtside x (.inl (Nat.lt_sub_of_add_lt hx)), hframe, hcall⟩
  · obtain ⟨t, hstep, hstatus, hnext, hprng, houtside, hframe, hcall⟩ :=
      step_of_wholeSlices hbusy (busyResult_s2Perm hphase)
        (by decide) (Nat.le_trans (by decide) hcap)
        (by simp only [Params.s2Region, Params.s2Slice]; omega)
        fun j hj => hread _ (by omega)
    exact ⟨t, hstep, hstatus, hnext, hprng,
      fun x hx => houtside x (.inr ((Nat.zero_add _).symm ▸ hx)), hframe, hcall⟩

end Sys2Proof.Proofs
end

section
/-! SUPPORT. The word transform of Pass B (spec/42_stage1.md R173). -/

namespace Sys2Proof.Proofs
open Sys2Proof Sys2Proof.Machine

section
variable {x f : Word}

/-- The condition of R173 as a case split on natural numbers. -/
theorem wordTransform_eq (x f : Word) (w : Half) :
    wordTransform x f w =
      (if f.toNat / 2 ≤ x.toNat % f.toNat then w ^^^ x.setWidth 16 else w) - x.setWidth 16 := by
  simp only [wordTransform, fenceCondition, decide_eq_true_eq]

theorem wordTransform_of_condition (h : f.toNat / 2 ≤ x.toNat % f.toNat) (w : Half) :
    wordTransform x f w = (w ^^^ x.setWidth 16) - x.setWidth 16 := by
  rw [wordTransform_eq, if_pos h]

theorem wordTransform_of_not_condition (h : ¬ f.toNat / 2 ≤ x.toNat % f.toNat) (w : Half) :
    wordTransform x f w = w - x.setWidth 16 := by
  rw [wordTransform_eq, if_neg h]

/-- No 15-bit draw meets the condition of a fence from 0x10000 on: it is below half the fence. -/
theorem not_condition_of_large_fence (hx : x.toNat < 2 ^ 15) (hf : 0x10000 ≤ f.toNat) :
    ¬ f.toNat / 2 ≤ x.toNat % f.toNat := by
  rw [Nat.mod_eq_of_lt (by omega)]
  omega

/-- The subtraction undoes the scrambler's addition, and the XOR its XOR. -/
theorem wordTransform_scrambled (x f : Word) (w : Half) :
    wordTransform x f
      (if f.toNat / 2 ≤ x.toNat % f.toNat then (w + x.setWidth 16) ^^^ x.setWidth 16 else w + x.setWidth 16) = w := by
  by_cases h : f.toNat / 2 ≤ x.toNat % f.toNat
  · rw [if_pos h, wordTransform_of_condition h, BitVec.xor_assoc, BitVec.xor_self, BitVec.xor_zero,
      BitVec.add_sub_cancel]
  · rw [if_neg h, wordTransform_of_not_condition h, BitVec.add_sub_cancel]
end

/-- Settles O10: the corners are the condition evaluated at their fences. -/
theorem wordTransformCorners : Obligations.WordTransformCorners := by
  unfold Obligations.WordTransformCorners
  intro x w hx
  refine ⟨fun f _ => wordTransform_eq x f w, ?_, ?_, fun f hf => ?_, fun f _ => wordTransform_scrambled x f w⟩
  · exact wordTransform_of_condition (Nat.zero_le _) w
  · have hodd : (2 : Word).toNat / 2 ≤ x.toNat % (2 : Word).toNat ↔ x.toNat % 2 = 1 := by
      rw [show (2 : Word).toNat = 2 from rfl]
      omega
    rw [wordTransform_eq]
    simp only [hodd]
  · exact wordTransform_of_not_condition (not_condition_of_large_fence hx hf) w

end Sys2Proof.Proofs
end

section
/-! SUPPORT. Pass B (spec/42_stage1.md R172) as a run over the 16-bit words of `BUF`: what one word's round does, and what
the rounds come to one after the other. -/

namespace Sys2Proof.Proofs
open Sys2Proof Sys2Proof.Machine

/-! ## The 16-bit words of `BUF` -/

/-- Word `k` of `BUF`, its two bytes big-endian, where both are there (R172). -/
def wordOf (s : State) (k : Nat) : Option Half :=
  (s.bufAt (2 * k)).bind fun b0 => (s.bufAt (2 * k + 1)).map fun b1 => word16 b0 b1

/-- The machine with word `k` of `BUF` written, the upper byte first (R172). -/
def storeWord (k : Nat) (w : Half) (s : State) : State :=
  (s.setBuf (2 * k) (w.extractLsb' 8 8)).setBuf (2 * k + 1) (w.extractLsb' 0 8)

section
variable {s t u : State} {i k n x : Nat} {w : Half}

theorem wordOf_eq_some :
    wordOf s k = some w ↔ ∃ b0 b1, s.bufAt (2 * k) = some b0 ∧ s.bufAt (2 * k + 1) = some b1 ∧ word16 b0 b1 = w := by
  simp [wordOf, Option.bind_eq_some_iff]

theorem word16_bytes (w : Half) : word16 (w.extractLsb' 8 8) (w.extractLsb' 0 8) = w :=
  BitVec.extractLsb'_append_extractLsb'

theorem wordOf_congr (h0 : t.bufAt (2 * k) = s.bufAt (2 * k)) (h1 : t.bufAt (2 * k + 1) = s.bufAt (2 * k + 1)) :
    wordOf t k = wordOf s k := by
  rw [wordOf, wordOf, h0, h1]

theorem wordOf_setPrng (p : Prng) (s : State) (k : Nat) : wordOf (s.setPrng p) k = wordOf s k := rfl

/-- A word is readable where its two bytes are. -/
theorem isSome_wordOf (h0 : (s.bufAt (2 * k)).isSome) (h1 : (s.bufAt (2 * k + 1)).isSome) : (wordOf s k).isSome := by
  obtain ⟨b0, hb0⟩ := Option.isSome_iff_exists.mp h0
  obtain ⟨b1, hb1⟩ := Option.isSome_iff_exists.mp h1
  exact Option.isSome_iff_exists.mpr ⟨_, wordOf_eq_some.mpr ⟨b0, b1, hb0, hb1, rfl⟩⟩

theorem bufAt_congr (hlen : t.payLen = s.payLen) (hread : t.buf.read x = s.buf.read x) : t.bufAt x = s.bufAt x := by
  rw [State.bufAt, State.bufAt, hlen, hread]

theorem read_storeWord_of_ne (h0 : x ≠ 2 * k) (h1 : x ≠ 2 * k + 1) (w : Half) (s : State) :
    (storeWord k w s).buf.read x = s.buf.read x :=
  (Memory.read_write_other _ _ _ _ h1.symm).trans (Memory.read_write_other _ _ _ _ h0.symm)

/-- Where a word's second byte exists, its two bytes are written one after the other (R172). -/
theorem writeWord_eq_ok (h : 2 * k + 1 < s.payLen.toNat) (w : Half) :
    ((writeBuf (2 * k) (w.extractLsb' 8 8) s).andThen fun _ t => writeBuf (2 * k + 1) (w.extractLsb' 0 8) t) =
      .ok () (storeWord k w s) := by
  rw [writeBuf_eq_ok.mpr ⟨Nat.lt_of_succ_lt h, rfl⟩, Result.ok_andThen]
  exact writeBuf_eq_ok.mpr ⟨h, rfl⟩

/-- A word that is there reads back as written. -/
theorem wordOf_storeWord_same (h : (wordOf s k).isSome) (w : Half) : wordOf (storeWord k w s) k = some w := by
  obtain ⟨v, hv⟩ := Option.isSome_iff_exists.mp h
  obtain ⟨b0, b1, hb0, hb1, _⟩ := wordOf_eq_some.mp hv
  have hlt0 := lt_payLen_of_bufAt hb0
  have hlt1 : 2 * k + 1 < (s.setBuf (2 * k) (w.extractLsb' 8 8)).payLen.toNat := lt_payLen_of_bufAt (s := s) hb1
  refine wordOf_eq_some.mpr ⟨w.extractLsb' 8 8, w.extractLsb' 0 8, ?_, ?_, word16_bytes w⟩
  · rw [storeWord, bufAt_setBuf hlt1, if_neg (Nat.succ_ne_self _), bufAt_setBuf hlt0, if_pos rfl]
  · rw [storeWord, bufAt_setBuf hlt1, if_pos rfl]

theorem wordOf_storeWord_other (h : i ≠ k) (w : Half) (s : State) : wordOf (storeWord k w s) i = wordOf s i :=
  wordOf_congr (bufAt_congr rfl (read_storeWord_of_ne (by omega) (by omega) w s))
    (bufAt_congr rfl (read_storeWord_of_ne (by omega) (by omega) w s))

/-! ## The rounds -/

/-- From `s` to `t` the `n` words from `k` on are transformed, each with its own draw (R172, R173), and no other byte has
changed. -/
structure Transformed (n k : Nat) (s t : State) : Prop where
  same : t = { s with buf := t.buf, prng := t.prng }
  prng : t.prng = Prng.next^[n] s.prng
  words : ∀ j, j < n →
    wordOf t (k + j) = (wordOf s (k + j)).map (wordTransform (Prng.next^[j] s.prng).draw15.1 s.seeds.fence)
  others : ∀ x, x < 2 * k ∨ 2 * (k + n) ≤ x → t.buf.read x = s.buf.read x

theorem Transformed.wordOf_other (h : Transformed n k s t) (hi : i < k ∨ k + n ≤ i) : wordOf t i = wordOf s i := by
  have hlen : t.payLen = s.payLen := by rw [h.same]
  exact wordOf_congr (bufAt_congr hlen (h.others _ (by omega))) (bufAt_congr hlen (h.others _ (by omega)))

theorem Transformed.zero (k : Nat) (s : State) : Transformed 0 k s s :=
  ⟨rfl, rfl, fun _ hj => absurd hj (Nat.not_lt_zero _), fun _ _ => rfl⟩

/-- One word, then those after it: the draws go on. -/
theorem Transformed.cons (h : Transformed 1 k s u) (h' : Transformed n (k + 1) u t) : Transformed (n + 1) k s t where
  same := by
    have e := h'.same
    rw [h.same] at e
    rw [e]
  prng := by rw [h'.prng, h.prng, ← Function.iterate_add_apply]
  words j hj := by
    cases j with
    | zero => rw [Nat.add_zero, h'.wordOf_other (.inl (Nat.lt_succ_self k)), ← Nat.add_zero k, h.words 0 Nat.one_pos]
    | succ j =>
      have hfence : u.seeds.fence = s.seeds.fence := by rw [h.same]
      have hword := h'.words j (Nat.lt_of_succ_lt_succ hj)
      rw [hfence, h.prng, ← Function.iterate_add_apply, Nat.add_right_comm, h.wordOf_other (.inr (by omega))] at hword
      exact hword
  others x hx := (h'.others x (by omega)).trans (h.others x (by omega))

/-- The round of a word that is there: one draw, and the transformed word in its place (R172). -/
theorem passBWord_eq_ok (h : wordOf s k = some w) :
    passBWord k s =
      .ok () (storeWord k (wordTransform s.prng.draw15.1 s.seeds.fence w) (s.setPrng s.prng.next)) := by
  obtain ⟨b0, b1, hb0, hb1, rfl⟩ := wordOf_eq_some.mp h
  rw [passBWord, readBuf_eq_ok.mpr ⟨hb0, rfl⟩, Result.ok_andThen, readBuf_eq_ok.mpr ⟨hb1, rfl⟩, Result.ok_andThen]
  simp only [draw15_snd]
  rw [writeWord_eq_ok (by rw [State.setPrng_payLen]; exact lt_payLen_of_bufAt hb1)]

theorem transformed_passBWord (h : wordOf s k = some w) :
    Transformed 1 k s (storeWord k (wordTransform s.prng.draw15.1 s.seeds.fence w) (s.setPrng s.prng.next)) where
  same := by rw [storeWord, State.setBuf, State.setBuf, State.setPrng]
  prng := by rw [storeWord, State.setBuf_prng, State.setBuf_prng, State.setPrng_prng, Function.iterate_one]
  words j hj := by
    obtain rfl : j = 0 := Nat.lt_one_iff.mp hj
    have hthere : (wordOf (s.setPrng s.prng.next) k).isSome := by rw [wordOf_setPrng, h, Option.isSome_some]
    rw [Nat.add_zero, wordOf_storeWord_same hthere, h, Option.map_some, Function.iterate_zero_apply]
  others x hx := by rw [read_storeWord_of_ne (by omega) (by omega), State.setPrng_buf]

/-- The rounds over words that are there go on and transform each of them. -/
theorem passBFrom_transforms (h : ∀ j, j < n → (wordOf s (k + j)).isSome) :
    ∃ t, passBFrom n k s = .ok () t ∧ Transformed n k s t := by
  induction n generalizing k s with
  | zero => exact ⟨s, rfl, .zero k s⟩
  | succ n ih =>
    obtain ⟨w, hw : wordOf s k = some w⟩ := Option.isSome_iff_exists.mp (h 0 (Nat.succ_pos n))
    have hfirst := transformed_passBWord hw
    obtain ⟨t, ht, hrest⟩ := ih (k := k + 1) fun j hj => by
      rw [hfirst.wordOf_other (.inr (by omega)), Nat.add_right_comm]
      exact h (j + 1) (Nat.succ_lt_succ hj)
    refine ⟨t, ?_, hfirst.cons hrest⟩
    rw [passBFrom, passBWord_eq_ok hw, Result.ok_andThen, ht]

/-- Pass B over a payload that is there: the rounds from a fresh seeding, then `S2_TAIL` (R172). -/
theorem passB_eq_ok (h : ∀ j, j < s.payLen.toNat → (s.bufAt j).isSome = true) :
    ∃ u, passB s = .ok () (u.enter .s2Tail) ∧
      Transformed (s.payLen.toNat / 2) 0 (s.setPrng (Prng.seed Params.const s.seeds.main.e1)) u := by
  obtain ⟨u, hu, hall⟩ := passBFrom_transforms (n := s.payLen.toNat / 2) (k := 0)
    (s := s.setPrng (Prng.seed Params.const s.seeds.main.e1))
    fun j hj => isSome_wordOf (h _ (by omega)) (h _ (by omega))
  exact ⟨u, by rw [passB, hu, Result.ok_andThen], hall⟩

theorem busyResult_s1b (h : s.phase = .s1b) : busyResult s = passB s := by
  rw [busyResult, h]
end

/-- Settles O11: the step is Pass B, which transforms the words from 0 on. -/
theorem passBTransformsEveryWord : Obligations.PassBTransformsEveryWord := by
  unfold Obligations.PassBTransformsEveryWord
  intro s hbusy hphase hread
  obtain ⟨u, hu, hall⟩ := passB_eq_ok hread
  have hstep : step s = .next (u.enter .s2Tail) := by
    rw [step_of_busy hbusy, busyResult_s1b hphase, hu]
    rfl
  refine ⟨u.enter .s2Tail, hstep, ?_, hall.prng, fun k b0 b1 hk hb0 hb1 => ?_, fun x hx => ?_⟩
  · rw [hall.same]
    rfl
  · have hold : wordOf s k = some (word16 b0 b1) := wordOf_eq_some.mpr ⟨b0, b1, hb0, hb1, rfl⟩
    have hword := hall.words k hk
    rw [Nat.zero_add] at hword
    obtain ⟨c0, c1, hc0, hc1, hnew⟩ := wordOf_eq_some.mp (hword.trans (congrArg _ hold))
    exact ⟨c0, c1, hc0, hc1, hnew⟩
  · exact hall.others x (.inr ((Nat.zero_add _).symm ▸ hx))

end Sys2Proof.Proofs
end

section
/-! SUPPORT. The tail of Stage-2 (spec/43_stage2.md R181, R182) and the sentinel scan (R183): where each goes on, where it
faults, and with what. -/

namespace Sys2Proof.Proofs
open Sys2Proof Sys2Proof.Machine

/-! ## Step 1: the tail -/

/-- The start values of the Stage-2 registers (spec/10_state.md R48), the payload's length in `S2_LEN`. -/
def tailSeed (s : State) : State :=
  { s with
    s2 :=
      { s.s2 with
        len := s.payLen, idx := 0, fudge := 0, count := 0, cx := s.cfg.ckInit.1, cs := s.cfg.ckInit.2 } }

/-- The machine with the three words taken off the tail, in the next phase (R182). -/
def tailRead (aux high low : Word) (s : State) : State :=
  { s with
    phase := .s2Scan
    s2 :=
      { (tailSeed s).s2 with
        len := BitVec.ofNat 32 (s.payLen.toNat - 12), aux := aux, ckHigh := high, ckLow := low } }

section
variable {s : State}

theorem busyResult_s2Tail (h : s.phase = .s2Tail) : busyResult s = readTail s := by
  rw [busyResult, h]

/-- The precondition of R181 stands before every read. -/
theorem readTail_eq_raised (h : s.payLen.toNat % 4 ≠ 0 ∨ s.payLen.toNat < 16) :
    readTail s = .raised .bufferTooSmall (tailSeed s) :=
  if_pos h

/-- With a good length and the three words there, the tail is taken off (R182). -/
theorem readTail_eq_ok {aux high low : Word} (hmod : s.payLen.toNat % 4 = 0) (hmin : 16 ≤ s.payLen.toNat)
    (haux : read32 s.bufAt (s.payLen.toNat - 4) = some aux) (hhigh : read32 s.bufAt (s.payLen.toNat - 8) = some high)
    (hlow : read32 s.bufAt (s.payLen.toNat - 12) = some low) :
    readTail s = .ok () (tailRead aux high low s) := by
  have hgood : ¬ (s.payLen.toNat % 4 ≠ 0 ∨ s.payLen.toNat < Params.s2MinLen) := fun h =>
    h.elim (fun h => h hmod) (Nat.not_lt.mpr hmin)
  have hword : ∀ {a : Nat} {w : Word}, read32 s.bufAt a = some w → readBuf32 a (tailSeed s) = .ok w (tailSeed s) :=
    fun h => readBuf32_eq_ok.mpr ⟨h, rfl⟩
  refine (if_neg hgood).trans ?_
  change (readBuf32 _ (tailSeed s)).andThen _ = _
  rw [hword haux, Result.ok_andThen, hword hhigh, Result.ok_andThen, hword hlow, Result.ok_andThen]
  rfl
end

/-- Settles O12: the fault is raised over the start values, before the tail is read. -/
theorem stage2SizeIsChecked : Obligations.Stage2SizeIsChecked := by
  unfold Obligations.Stage2SizeIsChecked
  intro s hbusy hphase hbad
  have hstep : step s = .next ((tailSeed s).raise .bufferTooSmall) := by
    rw [step_of_busy hbusy, busyResult_s2Tail hphase, readTail_eq_raised hbad]
    rfl
  exact ⟨_, ⟨hstep, rfl, rfl⟩, hphase, rfl, rfl, rfl, rfl⟩

/-- Settles O13: the three reads succeed, and the registers are written from them. -/
theorem tailWordsAreRead : Obligations.TailWordsAreRead := by
  unfold Obligations.TailWordsAreRead
  intro s aux high low hbusy hphase hmod hmin haux hhigh hlow
  have hlen : (BitVec.ofNat 32 (s.payLen.toNat - 12)).toNat = s.payLen.toNat - 12 := by
    rw [BitVec.toNat_ofNat]
    omega
  refine ⟨tailRead aux high low s, ?_, rfl, hbusy, rfl, rfl, rfl, hlen, rfl⟩
  rw [step_of_busy hbusy, busyResult_s2Tail hphase, readTail_eq_ok hmod hmin haux hhigh hlow]
  rfl

/-! ## Step 2: the scan -/

section
variable {s : State} {n i : Nat}

theorem busyResult_s2Scan (h : s.phase = .s2Scan) : busyResult s = scanSentinel s := by
  rw [busyResult, h]

/-- No byte of `BUF` from offset `lo` up to, not including, `hi` is the sentinel. -/
def SentinelFree (s : State) (lo hi : Nat) : Prop := ∀ j, lo ≤ j → j < hi → s.bufAt j ≠ some Params.sentinel

theorem SentinelFree.succ {lo hi : Nat} (h : SentinelFree s lo hi) (hhi : s.bufAt hi ≠ some Params.sentinel) :
    SentinelFree s lo (hi + 1) := fun j hlo hlt => by
  rcases Nat.lt_succ_iff_lt_or_eq.mp hlt with hlt | rfl
  · exact h j hlo hlt
  · exact hhi

/-- Over bytes that are there the scan stops at the highest sentinel, or raises where there is none (R183). -/
theorem scanBelow_cases (h : ∀ j, j < n → (s.bufAt j).isSome = true) :
    (∃ i, i < n ∧ s.bufAt i = some Params.sentinel ∧ SentinelFree s (i + 1) n ∧ scanBelow n s = .ok i s) ∨
      (SentinelFree s 0 n ∧ scanBelow n s = .raised .missingEndMarker s) := by
  induction n with
  | zero => exact .inr ⟨fun j _ hj => absurd hj (Nat.not_lt_zero j), rfl⟩
  | succ n ih =>
    obtain ⟨b, hb⟩ := Option.isSome_iff_exists.mp (h n (Nat.lt_succ_self n))
    have hscan : scanBelow (n + 1) s = if b = Params.sentinel then .ok n s else scanBelow n s := by
      rw [scanBelow, readBuf_eq_ok.mpr ⟨hb, rfl⟩, Result.ok_andThen]
    by_cases hsent : b = Params.sentinel
    · exact .inl ⟨n, Nat.lt_succ_self n, hsent ▸ hb, fun j hlo hhi => absurd hhi (Nat.not_lt.mpr hlo),
        hscan.trans (if_pos hsent)⟩
    · have hn : s.bufAt n ≠ some Params.sentinel := by rwa [hb, ne_eq, Option.some_inj]
      rw [hscan, if_neg hsent]
      refine (ih fun j hj => h j (Nat.lt_succ_of_lt hj)).imp ?_ ?_
      · rintro ⟨i, hi, hbyte, hfree, hrest⟩
        exact ⟨i, Nat.lt_succ_of_lt hi, hbyte, hfree.succ hn, hrest⟩
      · rintro ⟨hfree, hrest⟩
        exact ⟨hfree.succ hn, hrest⟩
end

/-- Settles O14: the scan's two outcomes as outcomes of the step. -/
theorem scanFindsTheHighestSentinel : Obligations.ScanFindsTheHighestSentinel := by
  unfold Obligations.ScanFindsTheHighestSentinel
  intro s hbusy hphase hread
  rw [step_of_busy hbusy, busyResult_s2Scan hphase, scanSentinel]
  rcases scanBelow_cases hread with ⟨i, hi, hbyte, hfree, hscan⟩ | ⟨hfree, hscan⟩
  · exact .inl ⟨i, hi, hbyte, hfree, by rw [hscan]; rfl⟩
  · exact .inr ⟨fun j => hfree j (Nat.zero_le j), by rw [hscan]; rfl⟩

end Sys2Proof.Proofs
end

section
/-! SUPPORT. Step 3 of Stage-2 (spec/43_stage2.md R184 to R186): the key switch, and the XOR loop as the key sequence run
beside `BUF`, which it never reads. -/

namespace Sys2Proof.Proofs
open Sys2Proof Sys2Proof.Machine

/-! ## The key switch -/

/-- The machine after a key switch (R186). -/
def switched (s : State) : State :=
  { s with
    seeds := { s.seeds with table := s.seeds.table.set s.s2.idx s.prng.a }
    prng := { s.prng with a := s.seeds.table.get (nextIdx s.s2.idx) }
    s2 :=
      { s.s2 with
        idx := nextIdx s.s2.idx, fudge := if s.s2.idx = 2 then s.s2.fudge + 1 else s.s2.fudge, count := 0 } }

theorem nextIdx_ne (idx : Fin Params.tableRing) : nextIdx idx ≠ idx := by
  revert idx
  decide

theorem nextIdx_eq_zero_iff (idx : Fin Params.tableRing) : nextIdx idx = 0 ↔ idx = 2 := by
  revert idx
  decide

section
variable {s : State}

/-- The reload sees the table before the stash: the new index is never the stashed one. -/
theorem rotateIfDue_of_due (h : s.s2.count = s.seeds.length.get s.s2.idx + s.s2.fudge) : rotateIfDue s = switched s := by
  have hdue : switchDue s.s2.count (s.seeds.length.get s.s2.idx) s.s2.fudge = true := beq_iff_eq.mpr h
  rw [rotateIfDue, if_pos hdue, switched]
  simp only [Triple.get_set_of_ne _ _ (nextIdx_ne s.s2.idx), nextIdx_eq_zero_iff]

theorem rotateIfDue_of_not_due (h : s.s2.count ≠ s.seeds.length.get s.s2.idx + s.s2.fudge) : rotateIfDue s = s :=
  if_neg fun hdue => h (beq_iff_eq.mp hdue)
end

/-- Settles O15: the two cases of the switch. -/
theorem keyRotation : Obligations.KeyRotation := by
  unfold Obligations.KeyRotation
  intro s
  refine ⟨rotateIfDue_of_not_due, fun hdue => ⟨switched s, rotateIfDue_of_due hdue, nextIdx_val _, ?_, ?_, rfl, rfl, rfl,
    rfl⟩⟩
  · exact Triple.get_set_self _ _ _
  · exact fun j hj => Triple.get_set_of_ne _ _ hj

/-! ## The key sequence -/

/-- The machine with another `BUF`. -/
def withBuf (m : Memory) (s : State) : State := { s with buf := m }

theorem rotateIfDue_withBuf (m : Memory) (s : State) : rotateIfDue (withBuf m s) = withBuf m (rotateIfDue s) := by
  by_cases h : s.s2.count = s.seeds.length.get s.s2.idx + s.s2.fudge
  · rw [rotateIfDue_of_due h, rotateIfDue_of_due (s := withBuf m s) h]
    rfl
  · rw [rotateIfDue_of_not_due h, rotateIfDue_of_not_due (s := withBuf m s) h]

theorem keyStep_withBuf (m : Memory) : Function.Commute State.keyStep (withBuf m) := fun s =>
  rotateIfDue_withBuf m { s with prng := s.prng.draw8.2, s2 := { s.s2 with count := s.s2.count + 1 } }

/-- However many key bytes are drawn, they do not depend on `BUF`. -/
theorem iterate_keyStep_withBuf (n : Nat) (m : Memory) (s : State) :
    State.keyStep^[n] (withBuf m s) = withBuf m (State.keyStep^[n] s) :=
  (keyStep_withBuf m).iterate_left n s

theorem keyStep_payLen (s : State) : s.keyStep.payLen = s.payLen := by
  rw [State.keyStep, (rotateIfDue_xorFrame _).same]

theorem keyStep_buf (s : State) : s.keyStep.buf = s.buf := by
  unfold State.keyStep rotateIfDue
  split <;> rfl

theorem iterate_keyStep_payLen (n : Nat) (s : State) : (State.keyStep^[n] s).payLen = s.payLen := by
  induction n generalizing s with
  | zero => rfl
  | succ n ih => rw [Function.iterate_succ_apply, ih, keyStep_payLen s]

theorem keyStep_setBuf (a : Nat) (v : Byte) (s : State) : (s.setBuf a v).keyStep = s.keyStep.setBuf a v := by
  have hbuf : s.keyStep.setBuf a v = withBuf (s.buf.write a v) s.keyStep := by
    rw [← keyStep_buf s]
    rfl
  exact (keyStep_withBuf (s.buf.write a v) s).trans hbuf.symm

/-! ## The XOR loop -/

section
variable {s t u : State} {i n : Nat}

theorem busyResult_s2Xor (h : s.phase = .s2Xor) : busyResult s = xorDecode s := by
  rw [busyResult, h]

/-- From `s` to `t` the `n` bytes from offset `i` on are XORed each with its own key byte, the key registers are `n` key
bytes further, and no other byte has changed (R185). -/
structure Decoded (n i : Nat) (s t : State) : Prop where
  same : t = withBuf t.buf (State.keyStep^[n] s)
  bytes : ∀ j, j < n → t.bufAt (i + j) = (s.bufAt (i + j)).map (· ^^^ (State.keyStep^[j] s).prng.draw8.1)
  others : ∀ x, x < i ∨ i + n ≤ x → t.buf.read x = s.buf.read x

/-- The round of a byte that is there: its XOR in its place, and one step of the key sequence. -/
theorem xorByte_eq_ok {b : Byte} (h : s.bufAt i = some b) :
    xorByte i s = .ok () (s.keyStep.setBuf i (b ^^^ s.prng.draw8.1)) := by
  have hlt : i < (s.setPrng s.prng.draw8.2).payLen.toNat := by
    rw [State.setPrng_payLen]
    exact lt_payLen_of_bufAt h
  rw [xorByte, readBuf_eq_ok.mpr ⟨h, rfl⟩, Result.ok_andThen, writeBuf_eq_ok.mpr ⟨hlt, rfl⟩, Result.ok_andThen,
    ← keyStep_setBuf, State.keyStep]
  simp only [State.setBuf, State.setPrng]

theorem decoded_xorByte {b : Byte} (h : s.bufAt i = some b) :
    Decoded 1 i s (s.keyStep.setBuf i (b ^^^ s.prng.draw8.1)) where
  same := rfl
  bytes j hj := by
    obtain rfl : j = 0 := Nat.lt_one_iff.mp hj
    have hlt : i < s.keyStep.payLen.toNat := keyStep_payLen s ▸ lt_payLen_of_bufAt h
    rw [Nat.add_zero, bufAt_setBuf hlt, if_pos rfl, h, Option.map_some, Function.iterate_zero_apply]
  others x hx := by
    rw [State.setBuf_buf, Memory.read_write_other _ _ _ _ (by omega), keyStep_buf s]

/-- The key sequence of the bytes below `n` goes on from where the first byte left it. -/
theorem Decoded.iterate_keyStep (h : Decoded 1 i s u) (k : Nat) :
    State.keyStep^[k] u = withBuf u.buf (State.keyStep^[k + 1] s) := by
  have hu : u = withBuf u.buf s.keyStep := h.same
  rw [Function.iterate_succ_apply, ← iterate_keyStep_withBuf, ← hu]

theorem Decoded.payLen (h : Decoded n i s t) : t.payLen = s.payLen := by
  rw [h.same]
  exact iterate_keyStep_payLen n s

/-- One byte, then those after it. -/
theorem Decoded.cons (h : Decoded 1 i s u) (h' : Decoded n (i + 1) u t) : Decoded (n + 1) i s t where
  same := by
    have e := h'.same
    rw [h.iterate_keyStep n] at e
    exact e
  bytes j hj := by
    cases j with
    | zero =>
      rw [Nat.add_zero, bufAt_congr h'.payLen (h'.others _ (.inl (Nat.lt_succ_self i)))]
      exact h.bytes 0 Nat.one_pos
    | succ j =>
      have hbyte := h'.bytes j (Nat.lt_of_succ_lt_succ hj)
      rw [h.iterate_keyStep j, Nat.add_right_comm, bufAt_congr h.payLen (h.others _ (.inr (by omega)))] at hbyte
      exact hbyte
  others x hx := (h'.others x (by omega)).trans (h.others x (by omega))

/-- The rounds over bytes that are there go on and decode each of them. -/
theorem xorFrom_decodes (h : ∀ j, j < n → (s.bufAt (i + j)).isSome = true) :
    ∃ t, xorFrom n i s = .ok () t ∧ Decoded n i s t := by
  induction n generalizing i s with
  | zero => exact ⟨s, rfl, rfl, fun j hj => absurd hj (Nat.not_lt_zero j), fun _ _ => rfl⟩
  | succ n ih =>
    obtain ⟨b, hb : s.bufAt i = some b⟩ := Option.isSome_iff_exists.mp (h 0 (Nat.succ_pos n))
    have hfirst := decoded_xorByte hb
    obtain ⟨t, ht, hrest⟩ := ih (i := i + 1) fun j hj => by
      rw [bufAt_congr hfirst.payLen (hfirst.others _ (.inr (by omega))), Nat.add_right_comm]
      exact h (j + 1) (Nat.succ_lt_succ hj)
    refine ⟨t, ?_, hfirst.cons hrest⟩
    rw [xorFrom, xorByte_eq_ok hb, Result.ok_andThen, ht]
end

/-- Settles O16: the loop runs from the key sequence's first state, which is the machine's with the key registers set. -/
theorem xorDecodesBelowTheMarker : Obligations.XorDecodesBelowTheMarker := by
  unfold Obligations.XorDecodesBelowTheMarker
  intro s hbusy hphase hread
  obtain ⟨u, hu, hdecoded⟩ := xorFrom_decodes (s := s.keySeed) (i := 0) fun j hj => (Nat.zero_add j).symm ▸ hread j hj
  have hstep : step s = .next (u.enter .s2Ck) := by
    rw [step_of_busy hbusy, busyResult_s2Xor hphase]
    change ((xorFrom s.s2.marker.toNat 0 s.keySeed).andThen _).toOutcome = _
    rw [hu]
    rfl
  have hstatus : u.status = s.status := by rw [(xorFrom_leaves (.inl ⟨_, hu⟩)).same]; rfl
  refine ⟨u.enter .s2Ck, hstep, rfl, hstatus.trans hbusy, fun j hj => ?_, fun x hx => ?_, ?_⟩
  · have hbyte := hdecoded.bytes j hj
    rw [Nat.zero_add] at hbyte
    exact hbyte
  · exact hdecoded.others x (.inr ((Nat.zero_add _).symm ▸ hx))
  · exact congrArg (State.enter .s2Ck) hdecoded.same

end Sys2Proof.Proofs
end

section
/-! SUPPORT. The two folds of step 4 of Stage-2 (spec/43_stage2.md R192): their closed forms, and the words they run over. -/

namespace Sys2Proof.Proofs
open Sys2Proof Sys2Proof.Machine

/-! ## The closed forms -/

theorem xorWords_cons (w : Word) (ws : List Word) : xorWords (w :: ws) = w ^^^ xorWords ws := by
  rw [xorWords, List.foldl_cons, BitVec.xor_comm 0 w]
  exact List.foldl_assoc

theorem sumWords_cons (w : Word) (ws : List Word) : sumWords (w :: ws) = w + sumWords ws := by
  rw [sumWords, List.foldl_cons, BitVec.add_comm 0 w]
  exact List.foldl_assoc

/-- One word more changes the parity, and so complements. -/
theorem closedCx_cons (w : Word) (ws : List Word) : closedCx (w :: ws) = ~~~w ^^^ closedCx ws := by
  have hparity : (if (ws.length + 1) % 2 = 1 then BitVec.allOnes 32 else 0) =
      ~~~(if ws.length % 2 = 1 then BitVec.allOnes 32 else 0) := by
    rcases Nat.mod_two_eq_zero_or_one ws.length with h | h
    · rw [if_pos (by omega), if_neg (by omega)]
      rfl
    · rw [if_neg (by omega), if_pos h]
      rfl
  rw [closedCx, closedCx, xorWords_cons, List.length_cons, hparity, BitVec.xor_assoc, ← BitVec.not_xor_right,
    ← BitVec.not_xor_right, ← BitVec.not_xor_left]

theorem closedCs_cons (w : Word) (ws : List Word) : closedCs (w :: ws) = closedCs ws - w := by
  rw [closedCs, closedCs, sumWords_cons]
  abel

/-- Another word in one place changes the closed form by the two words' difference. -/
theorem closedCx_set {ws : List Word} {i : Nat} {v : Word} (h : ws[i]? = some v) (w : Word) :
    closedCx (ws.set i w) = closedCx ws ^^^ (v ^^^ w) := by
  induction ws generalizing i with
  | nil => cases h
  | cons x ws ih =>
    cases i with
    | zero =>
      obtain rfl : x = v := Option.some_inj.mp h
      rw [List.set_cons_zero, closedCx_cons, closedCx_cons]
      grind
    | succ i => rw [List.set_cons_succ, closedCx_cons, closedCx_cons, ih h, BitVec.xor_assoc]

theorem closedCx_set_ne {ws : List Word} {i : Nat} {v w : Word} (h : ws[i]? = some v) (hne : w ≠ v) :
    closedCx (ws.set i w) ≠ closedCx ws := fun heq => by
  have hzero : v ^^^ w = 0#32 := by simpa [closedCx_set h] using heq
  exact hne (BitVec.xor_eq_zero_iff.mp hzero).symm

/-! ## The words of `BUF` -/

/-- Byte `i` of a big-endian word, the first one most significant (spec/20_memory.md R70). -/
def byteOf (w : Word) (i : Nat) : Byte := w.extractLsb' (8 * (3 - i)) 8

theorem byteOf_word32 (b0 b1 b2 b3 : Byte) :
    byteOf (word32 b0 b1 b2 b3) 0 = b0 ∧ byteOf (word32 b0 b1 b2 b3) 1 = b1 ∧ byteOf (word32 b0 b1 b2 b3) 2 = b2 ∧
      byteOf (word32 b0 b1 b2 b3) 3 = b3 := by
  have skip : ∀ {v w start : Nat} {hi : BitVec v} {lo : BitVec w}, w ≤ start →
      (hi ++ lo).extractLsb' start 8 = hi.extractLsb' (start - w) 8 := BitVec.extractLsb'_append_eq_of_le
  refine ⟨?_, ?_, ?_, BitVec.extractLsb'_append_eq_right⟩
  · rw [byteOf, word32, skip (by decide), skip (by decide)]
    exact BitVec.extractLsb'_append_eq_left
  · rw [byteOf, word32, skip (by decide), skip (by decide)]
    exact BitVec.extractLsb'_append_eq_right
  · rw [byteOf, word32, skip (by decide)]
    exact BitVec.extractLsb'_append_eq_right

/-- A word that is there determines its four bytes. -/
theorem byte_of_read32 {f : Nat → Option Byte} {a : Nat} {w : Word} (h : read32 f a = some w) {i : Nat} (hi : i < 4) :
    f (a + i) = some (byteOf w i) := by
  obtain ⟨b0, b1, b2, b3, h0, h1, h2, h3, rfl⟩ := read32_eq_some.mp h
  obtain ⟨e0, e1, e2, e3⟩ := byteOf_word32 b0 b1 b2 b3
  interval_cases i
  · rw [e0]; exact h0
  · rw [e1]; exact h1
  · rw [e2]; exact h2
  · rw [e3]; exact h3

theorem read32_congr {f g : Nat → Option Byte} {a : Nat} (h : ∀ i, i < 4 → f (a + i) = g (a + i)) :
    read32 f a = read32 g a := by
  rw [read32, read32, h 1 (by decide), h 2 (by decide), h 3 (by decide), show f a = g a from h 0 (by decide)]

/-- The big-endian words of a space of bytes from word `j` on are `ws`. -/
def WordsFrom (f : Nat → Option Byte) : Nat → List Word → Prop
  | _, [] => True
  | j, w :: ws => read32 f (4 * j) = some w ∧ WordsFrom f (j + 1) ws

theorem wordsFrom_iff {f : Nat → Option Byte} {j : Nat} {ws : List Word} :
    WordsFrom f j ws ↔ ∀ i, i < ws.length → read32 f (4 * (j + i)) = ws[i]? := by
  induction ws generalizing j with
  | nil => exact iff_of_true trivial fun i hi => absurd hi (Nat.not_lt_zero i)
  | cons w ws ih =>
    rw [WordsFrom, ih]
    constructor
    · rintro ⟨hfirst, hrest⟩ i hi
      cases i with
      | zero => exact hfirst
      | succ i =>
        have hword := hrest i (Nat.lt_of_succ_lt_succ hi)
        rw [Nat.add_right_comm] at hword
        exact hword
    · refine fun h => ⟨h 0 (Nat.succ_pos _), fun i hi => ?_⟩
      rw [Nat.add_right_comm]
      exact h (i + 1) (Nat.succ_lt_succ hi)

theorem wordsFrom_zero {s : State} {ws : List Word} : WordsFrom s.bufAt 0 ws ↔ s.WordsAre ws := by
  rw [wordsFrom_iff, State.WordsAre]
  simp only [Nat.zero_add]

theorem bufAt_setBuf_of_ne {s : State} {a x : Nat} (h : a ≠ x) (v : Byte) : (s.setBuf a v).bufAt x = s.bufAt x :=
  bufAt_congr rfl (Memory.read_write_other _ _ _ _ h)

/-- A byte past the words does not matter to them. -/
theorem wordsAre_setBuf {s : State} {ws : List Word} {a : Nat} (h : 4 * ws.length ≤ a) (v : Byte) :
    (s.setBuf a v).WordsAre ws ↔ s.WordsAre ws := by
  refine forall₂_congr fun j hj => ?_
  rw [read32_congr (g := s.bufAt) fun i hi => bufAt_setBuf_of_ne (by omega) v]

/-! ## The folds -/

/-- The machine with both accumulators over some more words (R192). -/
def folded (ws : List Word) (s : State) : State :=
  { s with s2 := { s.s2 with cx := s.s2.cx ^^^ closedCx ws, cs := s.s2.cs + closedCs ws } }

theorem folded_nil (s : State) : folded [] s = s := by
  have hcx : s.s2.cx ^^^ closedCx [] = s.s2.cx := BitVec.xor_zero
  have hcs : s.s2.cs + closedCs [] = s.s2.cs := BitVec.add_zero _
  rw [folded, hcx, hcs]

/-- One round, then those after it (R192). -/
theorem folded_cons (w : Word) (ws : List Word) (s : State) :
    folded (w :: ws) s =
      folded ws
        { s with s2 := { s.s2 with cx := (foldWord s.s2.cx s.s2.cs w).1, cs := (foldWord s.s2.cx s.s2.cs w).2 } } := by
  have hcx : s.s2.cx ^^^ closedCx (w :: ws) = (foldWord s.s2.cx s.s2.cs w).1 ^^^ closedCx ws := by
    rw [closedCx_cons, foldWord, BitVec.xor_assoc]
  have hcs : s.s2.cs + closedCs (w :: ws) = (foldWord s.s2.cx s.s2.cs w).2 + closedCs ws := by
    rw [closedCs_cons]
    change s.s2.cs + (closedCs ws - w) = s.s2.cs - w + closedCs ws
    abel
  rw [folded, folded, hcx, hcs]

theorem foldFrom_eq_ok {s : State} {j : Nat} {ws : List Word} (h : WordsFrom s.bufAt j ws) :
    foldFrom ws.length j s = .ok () (folded ws s) := by
  induction ws generalizing s j with
  | nil => rw [folded_nil]; rfl
  | cons w ws ih =>
    obtain ⟨hfirst, hrest⟩ := h
    rw [List.length_cons, foldFrom, readBuf32_eq_ok.mpr ⟨hfirst, rfl⟩, Result.ok_andThen, folded_cons]
    exact ih hrest

/-- The folds stop the model nowhere but at a word that is not there. -/
theorem foldFrom_stuck_or_words (n j : Nat) (s : State) :
    (∃ x, foldFrom n j s = .stuck x) ∨ ∃ ws, ws.length = n ∧ WordsFrom s.bufAt j ws := by
  induction n generalizing j s with
  | zero => exact .inr ⟨[], rfl, trivial⟩
  | succ n ih =>
    cases hword : read32 s.bufAt (4 * j) with
    | none => exact .inl ⟨_, by rw [foldFrom, readBuf32, hword, Result.stuck_andThen]⟩
    | some w =>
      rw [foldFrom, readBuf32_eq_ok.mpr ⟨hword, rfl⟩, Result.ok_andThen]
      refine (ih (j + 1) _).imp_right ?_
      rintro ⟨ws, hlen, hws⟩
      exact ⟨w :: ws, congrArg (· + 1) hlen, hword, hws⟩

/-- Settles O17: the words from word 0 on. -/
theorem checksumClosedForms : Obligations.ChecksumClosedForms := by
  unfold Obligations.ChecksumClosedForms
  exact fun s ws h => foldFrom_eq_ok (wordsFrom_zero.mpr h)

end Sys2Proof.Proofs
end

section
/-! SUPPORT. Step 4 of Stage-2 (spec/43_stage2.md R190 to R193): the marker zeroed, the two folds, the comparison; and
what one changed word does to it (R196). -/

namespace Sys2Proof.Proofs
open Sys2Proof Sys2Proof.Machine

/-! ## The step -/

section
variable {s t : State} {ws : List Word}

theorem busyResult_s2Ck (h : s.phase = .s2Ck) : busyResult s = checksum s := by
  rw [busyResult, h]

theorem truncatedLen_div_four (marker : Word) : truncatedLen marker / 4 = marker.toNat / 4 := by
  rw [truncatedLen]
  omega

/-- The computed pair is the stored one, paired as `CK_HIGH_IS_XOR` says (R193, D18). -/
def PairMatches (highIsXor : Bool) (cx cs high low : Word) : Prop :=
  if highIsXor = true then cx = high ∧ cs = low else cs = high ∧ cx = low

theorem checksumDiffers_iff (p : Bool) (cx cs high low : Word) :
    checksumDiffers p cx cs high low = true ↔ ¬ PairMatches p cx cs high low := by
  cases p <;> simp [checksumDiffers, PairMatches, imp_iff_not_or]

/-- A match fixes `CX`: it is the stored word that `CK_HIGH_IS_XOR` names. -/
theorem PairMatches.cx_eq {p : Bool} {cx cs high low : Word} (h : PairMatches p cx cs high low) :
    cx = if p = true then high else low := by
  cases p with
  | true => exact h.1
  | false => exact h.2

/-- The machine as step 4 compares it: marker zeroed, length truncated, both folds made (R190 to R192). -/
def summedUp (ws : List Word) (s : State) : State := folded ws (foldSeed (s.setBuf s.s2.marker.toNat 0))

theorem checksum_eq (hmarker : s.s2.marker.toNat < s.payLen.toNat) (hlen : ws.length = s.s2.marker.toNat / 4)
    (hws : s.WordsAre ws) :
    checksum s =
      if checksumDiffers s.cfg.ckHighIsXor (summedUp ws s).s2.cx (summedUp ws s).s2.cs s.s2.ckHigh s.s2.ckLow then
        .raised .checksumMismatch (summedUp ws s)
      else .ok () ((summedUp ws s).enter .s2Perm) := by
  have hseed : WordsFrom (foldSeed (s.setBuf s.s2.marker.toNat 0)).bufAt 0 ws :=
    wordsFrom_zero.mpr ((wordsAre_setBuf (by omega) 0).mpr hws)
  rw [checksum, writeBuf_eq_ok.mpr ⟨hmarker, rfl⟩, Result.ok_andThen]
  change (foldFrom (truncatedLen s.s2.marker / 4) 0 (foldSeed (s.setBuf s.s2.marker.toNat 0))).andThen _ = _
  rw [truncatedLen_div_four, ← hlen, foldFrom_eq_ok hseed, Result.ok_andThen]
  rfl

/-- A step that does not stop the model has its marker and its words (R190, R192). -/
theorem words_of_step_eq_next (hbusy : s.status = .busy) (hphase : s.phase = .s2Ck) (h : step s = .next t) :
    s.s2.marker.toNat < s.payLen.toNat ∧ ∃ ws, ws.length = s.s2.marker.toNat / 4 ∧ s.WordsAre ws := by
  have hnot : ∀ x, checksum s ≠ .stuck x := fun x hx => by
    rw [step_of_busy hbusy, busyResult_s2Ck hphase, hx] at h
    cases h
  by_cases hmarker : s.s2.marker.toNat < s.payLen.toNat
  · refine ⟨hmarker, ?_⟩
    rcases foldFrom_stuck_or_words (truncatedLen s.s2.marker / 4) 0 (foldSeed (s.setBuf s.s2.marker.toNat 0)) with
      ⟨x, hx⟩ | ⟨ws, hlen, hws⟩
    · refine absurd ?_ (hnot x)
      rw [checksum, writeBuf_eq_ok.mpr ⟨hmarker, rfl⟩, Result.ok_andThen]
      exact Result.andThen_eq_stuck.mpr (.inl hx)
    · rw [truncatedLen_div_four] at hlen
      exact ⟨ws, hlen, (wordsAre_setBuf (a := s.s2.marker.toNat) (by omega) 0).mp (wordsFrom_zero.mp hws)⟩
  · refine absurd ?_ (hnot (.noCell .buf s.s2.marker.toNat))
    rw [checksum, writeBuf, if_neg hmarker, Result.stuck_andThen]
end

/-- Settles O18: the comparison of the closed forms decides between the fault and the next phase. -/
theorem checksumDecides : Obligations.ChecksumDecides := by
  unfold Obligations.ChecksumDecides
  intro s ws hbusy hphase hmarker hlen hws
  have hstep : step s = (checksum s).toOutcome := by rw [step_of_busy hbusy, busyResult_s2Ck hphase]
  rw [checksum_eq hmarker hlen hws] at hstep
  have hbyte : (summedUp ws s).bufAt s.s2.marker.toNat = some 0 := (bufAt_setBuf hmarker 0 _).trans (if_pos rfl)
  have hothers : ∀ x, x ≠ s.s2.marker.toNat → (summedUp ws s).buf.read x = s.buf.read x := fun x hx =>
    Memory.read_write_other _ _ _ _ hx.symm
  have htrunc : (summedUp ws s).s2.tLen.toNat = s.s2.marker.toNat - s.s2.marker.toNat % 4 := by
    change (BitVec.ofNat 32 (truncatedLen s.s2.marker)).toNat = truncatedLen s.s2.marker
    rw [BitVec.toNat_ofNat, Nat.mod_eq_of_lt (Nat.lt_of_le_of_lt (truncatedLen_le _) s.s2.marker.isLt)]
  by_cases hmatch : PairMatches s.cfg.ckHighIsXor (summedUp ws s).s2.cx (summedUp ws s).s2.cs s.s2.ckHigh s.s2.ckLow
  · rw [if_neg fun hd => (checksumDiffers_iff _ _ _ _ _).mp hd hmatch] at hstep
    refine ⟨_, hstep, hbyte, hothers, htrunc, rfl, rfl, ?_, rfl⟩
    exact (if_pos hmatch).mpr ⟨hbusy, rfl, rfl⟩
  · rw [if_pos ((checksumDiffers_iff _ _ _ _ _).mpr hmatch)] at hstep
    refine ⟨_, hstep, hbyte, hothers, htrunc, rfl, rfl, ?_, rfl⟩
    exact (if_neg hmatch).mpr ⟨rfl, hphase, rfl⟩

/-! ## One changed byte -/

/-- Another byte among the words changes one of them, and no other. -/
theorem wordsAre_set_of_byte {s : State} {ws : List Word} {a : Nat} {b v : Byte} (hws : s.WordsAre ws)
    (ha : a < 4 * ws.length) (hb : s.bufAt a = some b) (hne : v ≠ b) :
    ∃ w w', ws[a / 4]? = some w ∧ w' ≠ w ∧ (s.setBuf a v).WordsAre (ws.set (a / 4) w') := by
  have hi : a / 4 < ws.length := by omega
  have hold : read32 s.bufAt (4 * (a / 4)) = some ws[a / 4] := (hws _ hi).trans (List.getElem?_eq_getElem hi)
  have hset := bufAt_setBuf (lt_payLen_of_bufAt hb) v
  obtain ⟨w', hnew⟩ := read32_isSome (at' := (s.setBuf a v).bufAt) (a := 4 * (a / 4)) fun j hj => by
    rw [hset]
    split
    · exact ⟨v, rfl⟩
    · exact ⟨_, byte_of_read32 hold hj⟩
  refine ⟨ws[a / 4], w', List.getElem?_eq_getElem hi, fun heq => hne ?_, fun j hj => ?_⟩
  · have hbyte : (s.setBuf a v).bufAt a = s.bufAt a := by
      have hmod : a % 4 < 4 := Nat.mod_lt a (by decide)
      have h := (byte_of_read32 (heq ▸ hnew) hmod).trans (byte_of_read32 hold hmod).symm
      rwa [Nat.div_add_mod] at h
    rw [hset, if_pos rfl, hb] at hbyte
    exact Option.some_inj.mp hbyte
  · rw [List.length_set] at hj
    by_cases hja : a / 4 = j
    · rw [← hja, hnew, List.getElem?_set_self hi]
    · rw [List.getElem?_set_ne hja, ← hws j hj]
      exact read32_congr fun i hi => bufAt_setBuf_of_ne (by omega) v

theorem xor_bit_ne {k : Nat} (hk : k < 8) (b : Byte) : b ^^^ ((1 : Byte) <<< k) ≠ b := fun h => by
  have hbit := congrArg (fun v : Byte => v.getLsbD k) h
  simp only [BitVec.getLsbD_xor, getLsbD_one_shiftLeft hk hk, decide_true, Bool.xor_true, Bool.not_eq_self] at hbit

/-- Settles O19: the flip changes one word, so `CX`, and a passing `CX` is fixed by the stored pair (R196). -/
theorem flippedBitIsDetected : Obligations.FlippedBitIsDetected := by
  unfold Obligations.FlippedBitIsDetected
  intro s t a k b hbusy hphase hstep hpass ha hk hb
  obtain ⟨hmarker, ws, hlen, hws⟩ := words_of_step_eq_next hbusy hphase hstep
  obtain ⟨w, w', hw, hne, hws'⟩ := wordsAre_set_of_byte hws (by omega) hb (xor_bit_ne hk b)
  obtain ⟨t', ht', -, -, -, hcx, -, hdecide, -⟩ := checksumDecides s ws hbusy hphase hmarker hlen hws
  obtain rfl : t' = t := Host.Outcome.next.inj (ht'.symm.trans hstep)
  obtain ⟨u, hu, -, -, -, hcx', -, hdecide', -⟩ :=
    checksumDecides (s.setBuf a (b ^^^ ((1 : Byte) <<< k))) (ws.set (a / 4) w') hbusy hphase hmarker
      ((List.length_set ..).trans hlen) hws'
  have hmatch : PairMatches s.cfg.ckHighIsXor t'.s2.cx t'.s2.cs s.s2.ckHigh s.s2.ckLow := by
    by_contra hno
    have hfailed := (if_neg hno).mp hdecide
    rw [hfailed.2.1] at hpass
    cases hpass
  have hno : ¬ PairMatches s.cfg.ckHighIsXor u.s2.cx u.s2.cs s.s2.ckHigh s.s2.ckLow := fun hmatch' => by
    have hsame := hmatch'.cx_eq.trans hmatch.cx_eq.symm
    rw [hcx', hcx] at hsame
    exact closedCx_set_ne hw hne ((BitVec.xor_right_inj _).mp hsame)
  obtain ⟨hfailed, -, hcode⟩ := (if_neg hno).mp hdecide'
  exact ⟨u, hu, hfailed, hcode⟩

end Sys2Proof.Proofs
end

section
/-! SUPPORT. What the Bitstream Reader has left: a bit is delivered wherever one is left and lowers the count by one;
`EOS` is answered at the end alone and changes nothing (spec/44_bitstream.md R210, R212, R213, R215). -/

namespace Sys2Proof.Proofs
open Sys2Proof Sys2Proof.Machine

section
variable {s t : State} {v : Byte} {n : Nat}

/-! ## The bits left -/

theorem held_of_boundary {r : Reader} (h : r.mask = 0) : r.held = 0 := if_pos h

theorem held_of_mask {r : Reader} {k : Nat} (hk : k < 8) (h : r.mask = (1 : Byte) <<< k) : r.held = k + 1 := by
  have hlog : ∀ k : Fin 8, ((1 : Byte) <<< k.val).toNat.log2 = k.val := by decide
  rw [Reader.held, h, if_neg (one_shiftLeft_ne_zero hk), hlog ⟨k, hk⟩]

/-- The mask's move to the next lower bit takes one bit from those held, the last one at mask 0x01 (R212). -/
theorem held_shiftRight {r : Reader} (hlegal : r.maskLegal) (hmask : r.mask ≠ 0) :
    { r with mask := r.mask >>> 1 }.held + 1 = r.held := by
  obtain ⟨k, hk, h⟩ := hlegal.resolve_left hmask
  rw [held_of_mask hk h, h]
  cases k with
  | zero => rfl
  | succ k => rw [one_shiftLeft_succ_shiftRight hk, held_of_mask (Nat.lt_of_succ_lt hk) rfl]

theorem left_shiftRight {r : Reader} (hlegal : r.maskLegal) (hmask : r.mask ≠ 0) :
    { r with mask := r.mask >>> 1 }.left + 1 = r.left := by
  rw [Reader.left, Reader.left, ← held_shiftRight hlegal hmask, Nat.add_right_comm]

/-- A refill moves eight bits from the bytes to be loaded to the byte held. -/
theorem left_loadByte (hmask : s.br.mask = 0) (hcur : s.br.cur.toNat < s.br.len.toNat) :
    (loadByte v s).br.left = s.br.left := by
  have hheld : (loadByte v s).br.held = 8 := held_of_mask (k := 7) (by decide) rfl
  have hnext : (loadByte v s).br.cur = s.br.cur + 1 := rfl
  have hlen : (loadByte v s).br.len = s.br.len := rfl
  rw [Reader.left, Reader.left, hheld, held_of_boundary hmask, hlen]
  bv_omega

/-! ## Reading what is left -/

theorem cur_lt_of_canRead (h : s.CanRead (n + 1)) (hmask : s.br.mask = 0) : s.br.cur.toNat < s.br.len.toNat := by
  have henough := h.enough
  rw [Reader.left, held_of_boundary hmask] at henough
  omega

theorem canRead_loadByte (h : s.CanRead (n + 1)) (hmask : s.br.mask = 0) : (loadByte v s).CanRead (n + 1) where
  mask := .inr ⟨7, by decide, rfl⟩
  cursor := by
    have hlt := cur_lt_of_canRead h hmask
    show s.br.cur + 1 ≤ s.br.len
    bv_omega
  enough := left_loadByte hmask (cur_lt_of_canRead h hmask) ▸ h.enough
  bytes j hj hlen := by
    have hlt := cur_lt_of_canRead h hmask
    have hnext : (loadByte v s).br.cur = s.br.cur + 1 := rfl
    exact h.bytes j (by bv_omega) hlen

/-- A held bit is delivered, and one fewer is left (R212). -/
theorem readBit_of_canRead_held (h : s.CanRead (n + 1)) (hmask : s.br.mask ≠ 0) :
    ∃ b t, readBit s = .ok (some b) t ∧ t.CanRead n ∧ t.br.left + 1 = s.br.left := by
  have hleft := left_shiftRight h.mask hmask
  exact ⟨_, _, readBit_of_held hmask,
    { mask := maskLegal_shiftRight h.mask, cursor := h.cursor, bytes := h.bytes,
      enough := Nat.le_of_succ_le_succ (h.enough.trans_eq hleft.symm) }, hleft⟩

/-- Where a bit is left, held or yet to be loaded, it is delivered, and one fewer is left (R212). -/
theorem readBit_of_canRead (h : s.CanRead (n + 1)) :
    ∃ b t, readBit s = .ok (some b) t ∧ t.CanRead n ∧ t.br.left + 1 = s.br.left := by
  by_cases hmask : s.br.mask = 0
  · have hlt := cur_lt_of_canRead h hmask
    obtain ⟨v, hv⟩ := Option.isSome_iff_exists.mp (h.bytes _ Nat.le.refl hlt)
    rw [readBit_loadByte hmask hlt hv, ← left_loadByte hmask hlt]
    exact readBit_of_canRead_held (canRead_loadByte h hmask) (by decide : (0x80 : Byte) ≠ 0)
  · exact readBit_of_canRead_held h hmask

theorem takeBits_of_canRead (h : s.CanRead n) :
    ∃ bits t, takeBits n s = .ok (some bits) t ∧ bits.length = n ∧ t.CanRead 0 ∧ t.br.left + n = s.br.left := by
  induction n generalizing s with
  | zero => exact ⟨[], s, rfl, rfl, h, rfl⟩
  | succ n ih =>
    obtain ⟨b, u, hb, hu, hone⟩ := readBit_of_canRead h
    obtain ⟨bits, t, hbits, hlen, ht, hleft⟩ := ih hu
    exact ⟨b :: bits, t, takeBits_succ_of_ok hb hbits, congrArg (· + 1) hlen, ht, by omega⟩

/-! ## The end -/

/-- `EOS` is answered at a byte boundary with no byte to load, and there alone, and changes nothing (R212). -/
theorem readBit_eq_eos_iff : readBit s = .ok none t ↔ s.br.mask = 0 ∧ s.br.len ≤ s.br.cur ∧ t = s := by
  constructor
  · intro h
    unfold readBit at h
    split at h
    case isTrue hmask =>
      split at h
      case isTrue hcur => exact ⟨hmask, hcur, (Result.ok.inj h).2.symm⟩
      case isFalse =>
        obtain ⟨v, u, -, hdeliver⟩ := Result.andThen_eq_ok.mp h
        cases hdeliver
    case isFalse => cases h
  · rintro ⟨hmask, hcur, rfl⟩
    rw [readBit, if_pos hmask, if_pos hcur]

theorem takeBits_of_eos (h : readBit s = .ok none t) : takeBits (n + 1) s = .ok none t := by
  rw [takeBits, h, Result.ok_andThen]

theorem readBits_of_eos (h : readBit s = .ok none t) : readBits (n + 1) s = .ok none t := by
  rw [readBits, takeBits_of_eos h, Result.ok_andThen, Option.map_none]
end

/-- Settles O21: by induction on `n`, each bit held or loaded with the next byte (R212, R213). -/
theorem readerDeliversWhatIsLeft : Obligations.ReaderDeliversWhatIsLeft := by
  unfold Obligations.ReaderDeliversWhatIsLeft
  intro s n h
  obtain ⟨bits, t, hbits, hlen, ht, hleft⟩ := takeBits_of_canRead h
  exact ⟨bits, t, hbits, hlen, hleft, ht.mask, ht.cursor⟩

/-- Settles O22: `EOS` leaves the reader as it was, where it answers `EOS` again (R215). -/
theorem endOfStreamIsSticky : Obligations.EndOfStreamIsSticky := by
  unfold Obligations.EndOfStreamIsSticky
  intro s t hle heos
  obtain ⟨hmask, hend, rfl⟩ := readBit_eq_eos_iff.mp heos
  refine ⟨BitVec.le_antisymm hle hend, hmask, heos, fun n hn => ?_⟩
  obtain ⟨m, rfl⟩ := Nat.exists_eq_add_of_le' hn
  exact readBits_of_eos heos

end Sys2Proof.Proofs
end

section
/-! SUPPORT. Fetching a codeword (spec/45_code_table.md R222, R223, R225): the zeros are counted, a 1 ends them, the payload
is taken; where the bits end first, the fetch comes to nothing and leaves the reader at the end. -/

namespace Sys2Proof.Proofs
open Sys2Proof Sys2Proof.Machine Sys2Proof.Laws

section
variable {s t u v : State} {k n : Nat} {b : Bool} {l l' pay : List Bool}

/-! ## The bits the reader delivers -/

/-- From `s` the reader delivers the bits `l`, and `t` is the state after the last one (R213). -/
def Delivers (s : State) (l : List Bool) (t : State) : Prop := takeBits l.length s = .ok (some l) t

theorem delivers_nil : Delivers s [] t ↔ t = s := by
  simp [Delivers, takeBits, eq_comm]

theorem delivers_cons : Delivers s (b :: l) t ↔ ∃ u, readBit s = .ok (some b) u ∧ Delivers u l t := by
  constructor
  · intro h
    rw [Delivers, List.length_cons, takeBits] at h
    obtain ⟨c, u, hc, h⟩ := Result.andThen_eq_ok.mp h
    cases c with
    | none => cases h
    | some c =>
      obtain ⟨rest, w, hrest, h⟩ := Result.andThen_eq_ok.mp h
      rw [Result.ok.injEq, Option.map_eq_some_iff] at h
      obtain ⟨⟨rest, rfl, hcons⟩, rfl⟩ := h
      obtain ⟨rfl, rfl⟩ := List.cons.inj hcons
      exact ⟨u, hc, hrest⟩
  · rintro ⟨u, hb, hl⟩
    exact takeBits_succ_of_ok hb hl

theorem delivers_append : Delivers s (l ++ l') t ↔ ∃ u, Delivers s l u ∧ Delivers u l' t := by
  induction l generalizing s with
  | nil => simp [delivers_nil]
  | cons b l ih =>
    simp only [List.cons_append, delivers_cons, ih]
    constructor
    · rintro ⟨w, hw, u, hl, hl'⟩
      exact ⟨u, ⟨w, hw, hl⟩, hl'⟩
    · rintro ⟨u, ⟨w, hw, hl⟩, hl'⟩
      exact ⟨w, hw, u, hl, hl'⟩

theorem Delivers.leaves (h : Delivers s l t) : t = { s with br := t.br } := takeBits_leaves (.inl ⟨_, h⟩)

/-- The three ways in which a read of one bit goes on: at the end, with a refill, or from the held byte (R212). -/
theorem readBit_cases {a : Option Bool} (h : readBit s = .ok a t) :
    (readBit s = .ok none s ∧ a = none ∧ t = s) ∨
      (s.br.mask = 0 ∧ s.br.cur.toNat < s.br.len.toNat ∧
        ∃ v, s.bufAt (s.br.base.toNat + s.br.cur.toNat) = some v ∧ deliverBit (loadByte v s) = .ok a t) ∨
      (s.br.mask ≠ 0 ∧ deliverBit s = .ok a t) := by
  by_cases hmask : s.br.mask = 0
  · by_cases hcur : s.br.len ≤ s.br.cur
    · have heos : readBit s = .ok none s := readBit_eq_eos_iff.mpr ⟨hmask, hcur, rfl⟩
      rw [heos] at h
      cases h
      exact .inl ⟨heos, rfl, rfl⟩
    · have hrefill := h
      rw [readBit, if_pos hmask, if_neg hcur] at hrefill
      obtain ⟨v, u, hread, hdeliver⟩ := Result.andThen_eq_ok.mp hrefill
      obtain ⟨hv, rfl⟩ := readBuf_eq_ok.mp hread
      exact .inr (.inl ⟨hmask, BitVec.not_le.mp hcur, v, hv, hdeliver⟩)
  · exact .inr (.inr ⟨hmask, (readBit_of_held hmask).symm.trans h⟩)

/-- A read stays in the reader's region (R212). -/
theorem readBit_region {a : Option Bool} (h : readBit s = .ok a t) :
    t.br.base = s.br.base ∧ t.br.len = s.br.len := by
  rcases readBit_cases h with ⟨-, -, rfl⟩ | ⟨-, -, v, -, hdeliver⟩ | ⟨-, hdeliver⟩
  · exact ⟨rfl, rfl⟩
  all_goals
    cases hdeliver
    exact ⟨rfl, rfl⟩

theorem Delivers.region (h : Delivers s l t) : t.br.base = s.br.base ∧ t.br.len = s.br.len := by
  induction l generalizing s with
  | nil => rw [delivers_nil.mp h]; exact ⟨rfl, rfl⟩
  | cons b l ih =>
    obtain ⟨u, hb, hl⟩ := delivers_cons.mp h
    obtain ⟨hbase, hlen⟩ := readBit_region hb
    obtain ⟨hbase', hlen'⟩ := ih hl
    exact ⟨hbase'.trans hbase, hlen'.trans hlen⟩

/-- A read of more bits than are left delivers none of them and ends where the last one was taken (R213). -/
theorem takeBits_of_eos_after (h : Delivers s l t) (heos : readBit t = .ok none t) (hlt : l.length < n) :
    takeBits n s = .ok none t := by
  induction l generalizing s n with
  | nil =>
    obtain rfl := delivers_nil.mp h
    obtain ⟨n, rfl⟩ := Nat.exists_eq_add_of_lt hlt
    exact takeBits_of_eos heos
  | cons b l ih =>
    obtain ⟨u, hb, hl⟩ := delivers_cons.mp h
    obtain ⟨m, rfl⟩ := Nat.exists_eq_add_of_le' (Nat.one_le_of_lt hlt)
    rw [takeBits, hb, Result.ok_andThen]
    simp only [ih hl (Nat.lt_of_succ_lt_succ hlt), Result.ok_andThen, Option.map_none]

/-! ## The reader does not look at `CODE_LEN` -/

/-- The state with `k` zeros counted in `CODE_LEN`. -/
def withCodeLen (k : Nat) (s : State) : State := { s with ct := { s.ct with codeLen := BitVec.ofNat 3 k } }

theorem countZero_withCodeLen (k : Nat) (s : State) : (withCodeLen k s).countZero = withCodeLen (k + 1) s := by
  rw [withCodeLen, withCodeLen, State.countZero, BitVec.ofNat_add]
  rfl

theorem deliverBit_withCodeLen {a : Option Bool} (k : Nat) (h : deliverBit s = .ok a t) :
    deliverBit (withCodeLen k s) = .ok a (withCodeLen k t) := by
  cases h
  rfl

theorem readBit_withCodeLen {a : Option Bool} (k : Nat) (h : readBit s = .ok a t) :
    readBit (withCodeLen k s) = .ok a (withCodeLen k t) := by
  rcases readBit_cases h with ⟨heos, rfl, rfl⟩ | ⟨hmask, hcur, v, hv, hdeliver⟩ | ⟨hmask, hdeliver⟩
  · obtain ⟨hmask, hend, -⟩ := readBit_eq_eos_iff.mp heos
    exact readBit_eq_eos_iff.mpr ⟨hmask, hend, rfl⟩
  · have hload : readBit (withCodeLen k s) = readBit (loadByte v (withCodeLen k s)) := readBit_loadByte hmask hcur hv
    rw [hload, readBit_of_held (by decide : (0x80 : Byte) ≠ 0)]
    exact deliverBit_withCodeLen k hdeliver
  · rw [readBit_of_held (s := withCodeLen k s) hmask]
    exact deliverBit_withCodeLen k hdeliver

theorem Delivers.withCodeLen (k : Nat) (h : Delivers s l t) : Delivers (withCodeLen k s) l (withCodeLen k t) := by
  induction l generalizing s with
  | nil => rw [delivers_nil.mp h, delivers_nil]
  | cons b l ih =>
    obtain ⟨u, hb, hl⟩ := delivers_cons.mp h
    exact delivers_cons.mpr ⟨_, readBit_withCodeLen k hb, ih hl⟩

/-! ## The zeros in front and the 1 that ends them -/

theorem fetchPrefix_of_zero (h : readBit s = .ok (some false) u) :
    fetchPrefix (n + 1) (withCodeLen k s) =
      (fetchPrefix n (withCodeLen (k + 1) u)).andThen fun bs t => .ok (bs.map (fun l => false :: l)) t := by
  rw [fetchPrefix, readBit_withCodeLen k h, Result.ok_andThen, countZero_withCodeLen]

theorem fetchPrefix_of_one (h : readBit s = .ok (some true) u) :
    fetchPrefix (n + 1) (withCodeLen k s) = .ok (some [true]) (withCodeLen k u) := by
  rw [fetchPrefix, readBit_withCodeLen k h, Result.ok_andThen]

theorem fetchPrefix_of_eos (h : readBit s = .ok none u) :
    fetchPrefix (n + 1) (withCodeLen k s) = .ok none (withCodeLen k u) := by
  rw [fetchPrefix, readBit_withCodeLen k h, Result.ok_andThen]

/-- Zeros are counted, and what follows them decides what the fetch comes to (R222). -/
theorem fetchPrefix_zeros {r : Option (List Bool)} {j : Nat} (h : Delivers s (List.replicate k false) u)
    (hrest : fetchPrefix n (withCodeLen (j + k) u) = .ok r t) :
    fetchPrefix (k + n) (withCodeLen j s) = .ok (r.map (List.replicate k false ++ ·)) t := by
  induction k generalizing s j with
  | zero =>
    obtain rfl := delivers_nil.mp h
    rw [Nat.zero_add]
    cases r <;> exact hrest
  | succ k ih =>
    obtain ⟨w, hw, hzeros⟩ := delivers_cons.mp h
    rw [Nat.succ_add, fetchPrefix_of_zero hw, ih hzeros (by rwa [Nat.succ_add]), Result.ok_andThen, Option.map_map]
    rfl

theorem fetchPrefix_cap_of_zeros {r : Option (List Bool)} (hk : k < Params.prefixCap)
    (h : Delivers s (List.replicate k false) u)
    (hrest : ∀ n, fetchPrefix (n + 1) (withCodeLen k u) = .ok r t) :
    fetchPrefix Params.prefixCap (withCodeLen 0 s) = .ok (r.map (List.replicate k false ++ ·)) t := by
  obtain ⟨n, hn⟩ := Nat.exists_eq_add_of_lt hk
  rw [hn]
  exact fetchPrefix_zeros h (by rw [Nat.zero_add]; exact hrest n)

/-! ## A whole codeword -/

/-- Seven zeros are a codeword by themselves (R223). -/
theorem fetchCodewordBits_of_capped (h : Delivers s (List.replicate Params.prefixCap false) t) :
    fetchCodewordBits s = .ok (some (List.replicate Params.prefixCap false)) (withCodeLen Params.prefixCap t) := by
  have hzeros : fetchPrefix Params.prefixCap (withCodeLen 0 s) = _ := fetchPrefix_zeros (n := 0) (j := 0) h rfl
  change (fetchPrefix Params.prefixCap (withCodeLen 0 s)).andThen _ = _
  rw [hzeros]
  rfl

/-- After `k` zeros and a 1 the `k` payload bits are taken (R222, R223). -/
theorem fetchCodewordBits_of_one (hk : k < Params.prefixCap) (h : Delivers s (List.replicate k false) u)
    (hone : readBit u = .ok (some true) v) :
    fetchCodewordBits s =
      (takeBits k (withCodeLen k v)).andThen fun pay t =>
        .ok (pay.map (fun l => List.replicate k false ++ [true] ++ l)) t := by
  have hpre := fetchPrefix_cap_of_zeros hk h fun n => fetchPrefix_of_one (n := n) hone
  have hcount : (withCodeLen k v).ct.codeLen.toNat = k := by
    rw [Params.prefixCap] at hk
    exact Nat.mod_eq_of_lt (Nat.lt_succ_of_lt hk)
  change (fetchPrefix Params.prefixCap (withCodeLen 0 s)).andThen _ = _
  rw [hpre, Result.ok_andThen, Option.map_some]
  simp only
  rw [if_neg fun hcap => hcap.2 (by simp), hcount]

/-- A pattern of a class that the reader delivers is fetched whole, with its zeros counted (R222, R223). -/
theorem fetchCodewordBits_of_codeword {p : Nat} (hk : k < Params.prefixCap) (h : Delivers s (codeword k p) t) :
    fetchCodewordBits s = .ok (some (codeword k p)) (withCodeLen k t) := by
  obtain ⟨u, hzeros, h⟩ := delivers_append.mp h
  obtain ⟨v, hone, hpay⟩ := delivers_cons.mp h
  have htake : takeBits k (withCodeLen k v) = .ok (some (bitsOf k p)) (withCodeLen k t) := by
    have hd := hpay.withCodeLen k
    rwa [Delivers, bitsOf_length] at hd
  rw [fetchCodewordBits_of_one hk hzeros hone, htake, Result.ok_andThen, Option.map_some, codeword, List.append_assoc,
    List.singleton_append]

/-- The bits of a codeword that the reader delivers are fetched, no more and no fewer. -/
theorem fetchCodewordBits_of_encode {i : Instr} {w : List Bool} (hw : encode i = .bits w) (h : Delivers s w t) :
    ∃ t', fetchCodewordBits s = .ok (some w) t' := by
  rcases encode_eq_bits hw with ⟨-, rfl⟩ | ⟨k, p, hk, -, -, rfl⟩
  · exact ⟨_, fetchCodewordBits_of_capped h⟩
  · exact ⟨_, fetchCodewordBits_of_codeword (Nat.lt_succ_of_le hk) h⟩

/-! ## Bits that end inside a codeword -/

/-- Bits that the decoder finds too few: fewer than seven zeros, or a 1 after `k` zeros and fewer than `k` bits behind
it (R225). -/
theorem decodeBitsAfter_eq_error {e : DecodeError} (hk : k < Params.prefixCap) (h : decodeBitsAfter k l = .error e) :
    ∃ n, k + n < Params.prefixCap ∧
      (l = List.replicate n false ∨ ∃ pay, pay.length < k + n ∧ l = List.replicate n false ++ true :: pay) := by
  induction l generalizing k with
  | nil => exact ⟨0, hk, .inl rfl⟩
  | cons b l ih =>
    cases b with
    | true =>
      rw [decodeBitsAfter] at h
      split at h
      case isTrue hshort => exact ⟨0, hk, .inr ⟨l, hshort, rfl⟩⟩
      case isFalse => cases h
    | false =>
      rw [decodeBitsAfter] at h
      split at h
      case isTrue => cases h
      case isFalse hcap =>
        obtain ⟨n, hn, hl⟩ := ih (Nat.lt_of_le_of_ne hk hcap) h
        have hadd : k + 1 + n = k + (n + 1) := by omega
        rw [hadd] at hn hl
        refine ⟨n + 1, hn, hl.imp ?_ ?_⟩
        · rintro rfl
          rfl
        · rintro ⟨pay, hpay, rfl⟩
          exact ⟨pay, hpay, rfl⟩

/-- The stream ends inside a codeword: the fetch comes to nothing, its bits are lost, and `CODE_LEN` alone has changed
besides the reader (R225). -/
theorem fetchCodewordBits_of_error {e : DecodeError} (hl : decodeBits l = .error e) (h : Delivers s l u)
    (heos : readBit u = .ok none u) : ∃ k, fetchCodewordBits s = .ok none (withCodeLen k u) := by
  obtain ⟨k, hk, hcases⟩ := decodeBitsAfter_eq_error (by decide) hl
  rw [Nat.zero_add] at hk hcases
  refine ⟨k, ?_⟩
  rcases hcases with rfl | ⟨pay, hpay, rfl⟩
  · have hpre := fetchPrefix_cap_of_zeros hk h fun n => fetchPrefix_of_eos (n := n) heos
    change (fetchPrefix Params.prefixCap (withCodeLen 0 s)).andThen _ = _
    rw [hpre]
    rfl
  · obtain ⟨w, hzeros, h⟩ := delivers_append.mp h
    obtain ⟨v, hone, hd⟩ := delivers_cons.mp h
    rw [fetchCodewordBits_of_one hk hzeros hone,
      takeBits_of_eos_after (hd.withCodeLen k) (readBit_withCodeLen k heos) hpay]
    rfl
end

end Sys2Proof.Proofs
end

section
/-! SUPPORT. The statements about the Code Table Builder (spec/45_code_table.md R221 to R237): a codeword's own meaning, the
step that runs it, and the end of the table. -/

namespace Sys2Proof.Proofs
open Sys2Proof Sys2Proof.Machine Sys2Proof.Laws

section
variable {s t u : State}

/-! ## The meaning of a codeword -/

/-- A codeword's pattern has as many bits as its meaning takes. -/
theorem length_of_encode {i : Instr} {w : List Bool} (h : encode i = .bits w) : w.length = i.size := by
  have hsize : (encode i).size = i.size := by
    cases i with
    | pfx0 => exact EncodedSize.pfx0
    | pfx1 p => exact EncodedSize.pfx1 p
    | pfx2 p => exact EncodedSize.pfx2 p
    | pfx3 p => exact EncodedSize.pfx3 p
    | pfx4 p => exact EncodedSize.pfx4 p
    | pfx5 p => exact EncodedSize.pfx5 p
    | pfx6 p => exact EncodedSize.pfx6 p
    | pfxz => exact EncodedSize.pfxz
    | lit | rep _ | cpy _ _ | cpyd _ | cpyw _ _ | run _ | runx => cases h
  rwa [h] at hsize

/-- The meaning of a codeword is one use of the shared operation (R221, R222). -/
theorem exec_codeword {i : Instr} {w : List Bool} (h : encode i = .bits w) (s : State) :
    exec i s = (emitEntry w.length (codewordEntry i).1 (codewordEntry i).2 s).toOutcome := by
  have hnot : i.isGlaze = false := decodeBits_isGlaze (decodeBits_encode h [])
  rw [exec_eq_instrResult, instrResult, hnot, if_neg Bool.false_ne_true, length_of_encode h]

/-- Where the bits can be read, the entry is emitted (R221). -/
theorem emitEntry_of_delivers {l : List Bool} (k : Nat) (v : Byte) (h : Delivers s l t) :
    emitEntry l.length k v s = .ok () (t.pushTab k v) := by
  rw [emitEntry, show takeBits l.length s = .ok (some l) t from h, Result.ok_andThen]

theorem emitsEntry_of_codewordEntry {i : Instr} {w : List Bool} {k : Nat} {v : Byte} (hw : encode i = .bits w)
    (hentry : codewordEntry i = (k, v)) : EmitsEntry i w k v := by
  refine ⟨hw, fun s hread => ?_⟩
  obtain ⟨l, t, htake, hlen, -, hleft⟩ := takeBits_of_canRead hread
  have hd : Delivers s l t := by rwa [Delivers, hlen]
  obtain ⟨hbase, hregion⟩ := hd.region
  refine ⟨t.br, hbase, hregion, hleft, ?_⟩
  rw [exec_codeword hw, hentry, ← hlen, emitEntry_of_delivers k v hd, hd.leaves]
  rfl

theorem entryOf_toNat (k : Nat) {m : Nat} (p : BitVec m) : entryOf k p.toNat = (1 : Byte) <<< k ||| p.setWidth 8 := by
  rw [entryOf, BitVec.ofNat_toNat]

/-! ## The step -/

theorem busyResult_glzTab (h : s.phase = .glzTab) :
    busyResult s = if s.ct.tcount < s.ct.tlen then fetchedResult (fetchCodeword s) s else .ok () s.closeTable := by
  rw [busyResult, h]

/-- With entries still to come, a step of the builder is what becomes of the bits fetched. -/
theorem step_of_entry (hbusy : s.status = .busy) (hphase : s.phase = .glzTab) (hlt : s.ct.tcount < s.ct.tlen) :
    step s = ((fetchCodewordBits s).andThen (afterCodewordBits s)).toOutcome := by
  rw [step_of_busy hbusy, busyResult_glzTab hphase, if_pos hlt, fetchCodeword_eq_andThen]
end

/-- Settles O27: every class is `emitEntry` with its own count and entry. -/
theorem codewordsEmitTheirEntries : Obligations.CodewordsEmitTheirEntries := by
  unfold Obligations.CodewordsEmitTheirEntries
  refine ⟨emitsEntry_of_codewordEntry rfl rfl, fun p => ?_, fun p => ?_, fun p => ?_, fun p => ?_, fun p => ?_,
    fun p => ?_, emitsEntry_of_codewordEntry rfl rfl⟩
  all_goals exact emitsEntry_of_codewordEntry rfl (congrArg (Prod.mk _) (entryOf_toNat _ p))

/-- Settles O28: bits that decode are a codeword's pattern, which the fetch takes whole. -/
theorem stepRunsTheCodeword : Obligations.StepRunsTheCodeword := by
  unfold Obligations.StepRunsTheCodeword
  intro s t bits i hbusy hphase hlt htake hdecode
  obtain ⟨w, hw, hbits⟩ := decodeBits_eq_ok hdecode
  rw [List.append_nil] at hbits
  obtain ⟨t', hfetch⟩ := fetchCodewordBits_of_encode (hbits ▸ hw) htake
  rw [step_of_entry hbusy hphase hlt, hfetch, Result.ok_andThen, afterCodewordBits, Option.map_some, hdecode,
    exec_eq_instrResult]

/-- Settles O29: the fetch that meets the end of the stream closes the table, and so does a full table. -/
theorem shortTableEndsTheBuilder : Obligations.ShortTableEndsTheBuilder := by
  unfold Obligations.ShortTableEndsTheBuilder
  refine ⟨fun s u bits hbusy hphase hlt htake hmask hend hdecode => ?_, fun s hbusy hphase hfull => ?_⟩
  · have hd : Delivers s bits u := htake
    obtain ⟨k, hfetch⟩ := fetchCodewordBits_of_error hdecode hd (readBit_eq_eos_iff.mpr ⟨hmask, hend, rfl⟩)
    refine ⟨BitVec.ofNat 3 k, ?_⟩
    rw [step_of_entry hbusy hphase hlt, hfetch, hd.leaves]
    rfl
  · rw [step_of_busy hbusy, busyResult_glzTab hphase, if_neg (BitVec.not_lt.mpr hfull)]
    rfl

end Sys2Proof.Proofs
end

section
/-! SUPPORT. The header parse (spec/46_glaze.md R241 to R245) cut at its reads: the two size words, the dictionary, the
overflow stream, the table's set-up (spec/45_code_table.md R220); where each part goes on and where it raises. -/

namespace Sys2Proof.Proofs
open Sys2Proof Sys2Proof.Machine

/-! ## The parts -/

/-- `DECLARED` and `LB` are set from the first two words (R241). -/
def sizesRead (declared lb : Word) (s : State) : State := { s with glz := { s.glz with declared := declared, lb := lb } }

/-- `LD` is set from the dictionary's length word (R243). -/
def dictLenRead (ld : Word) (s : State) : State := { s with glz := { s.glz with ld := ld } }

/-- `LO` is set from the overflow stream's length word (R243). -/
def ovfLenRead (lo : Word) (s : State) : State := { s with glz := { s.glz with lo := lo } }

/-- `DICT_BASE` is set behind the dictionary's length word. -/
def dictPlaced (s : State) : State :=
  { s with glz := { s.glz with dictBase := BitVec.ofNat 32 (12 + s.glz.lb.toNat) } }

/-- `OVF_BASE` is set behind the overflow stream's length word, and the table builder has its turn (R244). -/
def ovfPlaced (s : State) : State :=
  { s with
    phase := .glzTab
    glz := { s.glz with ovfBase := BitVec.ofNat 32 (12 + s.glz.lb.toNat + s.glz.ld.toNat + 4) } }

/-- The overflow stream (R243), then the table's set-up. -/
def parseOvf (s : State) : Result Unit :=
  (lengthPrefix (12 + s.glz.lb.toNat + s.glz.ld.toNat) s).andThen fun lo s =>
  if s.s2.tLen.toNat - (12 + s.glz.lb.toNat + s.glz.ld.toNat + 4) < lo.toNat then
    .raised .regionTooLarge (ovfLenRead lo s)
  else openTable (ovfPlaced (ovfLenRead lo s))

/-- The dictionary (R243) and what follows it. -/
def parseDict (s : State) : Result Unit :=
  (lengthPrefix (8 + s.glz.lb.toNat) s).andThen fun ld s =>
  if s.s2.tLen.toNat - (12 + s.glz.lb.toNat) < ld.toNat then .raised .regionTooLarge (dictLenRead ld s)
  else parseOvf (dictPlaced (dictLenRead ld s))

/-- The checks of the two size words (R242, R243) and what follows them. -/
def checkSizes (s : State) : Result Unit :=
  if s.glz.declared ≠ s.expected then .raised .sizeMismatch s
  else if s.cfg.capOut < s.expected.toNat then .raised .allocationFailure s
  else if s.s2.tLen.toNat - 8 < s.glz.lb.toNat then .raised .regionTooLarge s
  else parseDict s

section
variable {s : State} {declared lb ld lo n w : Word} {pos : Nat} {ph : Phase} {k : ErrKind}

/-! ## Where each part goes on -/

theorem lengthPrefix_eq_raised (h : s.s2.tLen.toNat < pos + 4) : lengthPrefix pos s = .raised .regionTooLarge s :=
  if_pos (by omega)

theorem lengthPrefix_eq_ok (h : pos + 4 ≤ s.s2.tLen.toNat) (hw : read32 s.bufAt pos = some w) :
    lengthPrefix pos s = .ok w s := by
  rw [lengthPrefix, if_neg (by omega), readBuf32_eq_ok.mpr ⟨hw, rfl⟩]

theorem parseHeader_eq_raised (h : s.s2.tLen.toNat < 8) : parseHeader s = .raised .regionTooLarge s := if_pos h

/-- What follows a length word reads the state that the word was read from. -/
theorem lengthPrefix_andThen_congr {f g : Word → State → Result Unit} (h : ∀ w, f w s = g w s) :
    (lengthPrefix pos s).andThen f = (lengthPrefix pos s).andThen g := by
  cases hr : lengthPrefix pos s with
  | ok w t =>
    obtain rfl : t = s := lengthPrefix_leaves (.inl ⟨w, hr⟩)
    exact h w
  | raised k t => rfl
  | stuck x => rfl

/-- With the two size words read, the header parse is their checks and what follows (R241). -/
theorem parseHeader_eq_checkSizes (h : 8 ≤ s.s2.tLen.toNat) (hdeclared : read32 s.bufAt 0 = some declared)
    (hlb : read32 s.bufAt 4 = some lb) : parseHeader s = checkSizes (sizesRead declared lb s) := by
  refine (if_neg (Nat.not_lt.mpr h)).trans ?_
  rw [readBuf32_eq_ok.mpr ⟨hdeclared, rfl⟩, Result.ok_andThen, readBuf32_eq_ok.mpr ⟨hlb, rfl⟩, Result.ok_andThen]
  refine if_congr Iff.rfl rfl (if_congr Iff.rfl rfl (if_congr Iff.rfl rfl ?_))
  refine lengthPrefix_andThen_congr (s := sizesRead declared lb s) fun ld => if_congr Iff.rfl rfl ?_
  exact lengthPrefix_andThen_congr (s := dictPlaced (dictLenRead ld (sizesRead declared lb s))) fun lo => rfl

theorem checkSizes_eq_parseDict (hdeclared : s.glz.declared = s.expected) (hcap : s.expected.toNat ≤ s.cfg.capOut)
    (hlb : 8 + s.glz.lb.toNat ≤ s.s2.tLen.toNat) : checkSizes s = parseDict s := by
  rw [checkSizes, if_neg (not_not.mpr hdeclared), if_neg (Nat.not_lt.mpr hcap), if_neg (by omega)]

theorem parseDict_eq_parseOvf (hfit : 12 + s.glz.lb.toNat + ld.toNat ≤ s.s2.tLen.toNat)
    (hld : read32 s.bufAt (8 + s.glz.lb.toNat) = some ld) :
    parseDict s = parseOvf (dictPlaced (dictLenRead ld s)) := by
  rw [parseDict, lengthPrefix_eq_ok (by omega) hld, Result.ok_andThen, if_neg (by omega)]

theorem parseOvf_eq_openTable (hfit : 16 + s.glz.lb.toNat + s.glz.ld.toNat + lo.toNat ≤ s.s2.tLen.toNat)
    (hlo : read32 s.bufAt (12 + s.glz.lb.toNat + s.glz.ld.toNat) = some lo) :
    parseOvf s = openTable (ovfPlaced (ovfLenRead lo s)) := by
  rw [parseOvf, lengthPrefix_eq_ok (by omega) hlo, Result.ok_andThen, if_neg (by omega)]

/-- The state in which the table builder starts, `n` entries wanted (R220). -/
def tableOpened (n : Word) (s : State) : State :=
  initReader 12 (s.glz.lb - 4) { s with ct := { s.ct with tlen := n, tcount := 0 } }

theorem openTable_eq_ok (hlb : 4 ≤ s.glz.lb.toNat) (hn : read32 s.bufAt 8 = some n)
    (hcap : n.toNat ≤ s.cfg.capTable) : openTable s = .ok () (tableOpened n s) := by
  rw [openTable, if_neg (Nat.not_lt.mpr hlb), readBuf32_eq_ok.mpr ⟨hn, rfl⟩, Result.ok_andThen]
  exact if_neg (Nat.not_lt.mpr hcap)

/-! ## How far the parse goes

The states are written out field by field, not as updates of one another: each level of nested updates multiplies the
work of comparing them. -/

/-- The state in which the overflow stream has its turn: the sizes agree and the dictionary fits. -/
def dictParsed (lb ld : Word) (s : State) : State :=
  { s with
    glz :=
      { s.glz with declared := s.expected, lb := lb, ld := ld, dictBase := BitVec.ofNat 32 (12 + lb.toNat) } }

/-- The state in which the table's set-up has its turn: every region fits (R244). -/
def regionsParsed (lb ld lo : Word) (s : State) : State :=
  { s with
    phase := .glzTab
    glz :=
      { s.glz with
        declared := s.expected, lb := lb, ld := ld, lo := lo, dictBase := BitVec.ofNat 32 (12 + lb.toNat)
        ovfBase := BitVec.ofNat 32 (12 + lb.toNat + ld.toNat + 4) } }

theorem parseHeader_eq_parseDict (hdeclared : read32 s.bufAt 0 = some s.expected)
    (hcap : s.expected.toNat ≤ s.cfg.capOut) (hlb : read32 s.bufAt 4 = some lb)
    (hfit : 8 + lb.toNat ≤ s.s2.tLen.toNat) : parseHeader s = parseDict (sizesRead s.expected lb s) :=
  (parseHeader_eq_checkSizes (by omega) hdeclared hlb).trans
    (checkSizes_eq_parseDict (s := sizesRead s.expected lb s) rfl hcap hfit)

theorem parseHeader_eq_parseOvf (hdeclared : read32 s.bufAt 0 = some s.expected)
    (hcap : s.expected.toNat ≤ s.cfg.capOut) (hlb : read32 s.bufAt 4 = some lb)
    (hld : read32 s.bufAt (8 + lb.toNat) = some ld) (hfit : 12 + lb.toNat + ld.toNat ≤ s.s2.tLen.toNat) :
    parseHeader s = parseOvf (dictParsed lb ld s) :=
  (parseHeader_eq_parseDict hdeclared hcap hlb (by omega)).trans
    (parseDict_eq_parseOvf (s := sizesRead s.expected lb s) hfit hld)

theorem parseHeader_eq_openTable (hdeclared : read32 s.bufAt 0 = some s.expected)
    (hcap : s.expected.toNat ≤ s.cfg.capOut) (hlb : read32 s.bufAt 4 = some lb)
    (hld : read32 s.bufAt (8 + lb.toNat) = some ld) (hlo : read32 s.bufAt (12 + lb.toNat + ld.toNat) = some lo)
    (hfit : 16 + lb.toNat + ld.toNat + lo.toNat ≤ s.s2.tLen.toNat) :
    parseHeader s = openTable (regionsParsed lb ld lo s) :=
  (parseHeader_eq_parseOvf hdeclared hcap hlb hld (by omega)).trans
    (parseOvf_eq_openTable (s := dictParsed lb ld s) hfit hlo)

/-! ## Where each part raises -/

/-- From `s` an operation raises the kind `k`, with the parameters, `PHASE` and `OUT` as they are in `s`. -/
def Rejects (s : State) (k : ErrKind) (r : Result Unit) : Prop :=
  ∃ t, r = .raised k t ∧ t.cfg = s.cfg ∧ t.phase = s.phase ∧ t.out = s.out

theorem checkSizes_rejects_mismatch (h : s.glz.declared ≠ s.expected) :
    Rejects s .sizeMismatch (checkSizes s) :=
  ⟨s, if_pos h, rfl, rfl, rfl⟩

theorem checkSizes_rejects_capacity (hdeclared : s.glz.declared = s.expected) (hcap : s.cfg.capOut < s.expected.toNat) :
    Rejects s .allocationFailure (checkSizes s) :=
  ⟨s, by rw [checkSizes, if_neg (not_not.mpr hdeclared), if_pos hcap], rfl, rfl, rfl⟩

theorem checkSizes_rejects_bitstream (hdeclared : s.glz.declared = s.expected)
    (hcap : s.expected.toNat ≤ s.cfg.capOut) (hmin : 8 ≤ s.s2.tLen.toNat)
    (hlt : s.s2.tLen.toNat < 8 + s.glz.lb.toNat) :
    Rejects s .regionTooLarge (checkSizes s) :=
  ⟨s, by rw [checkSizes, if_neg (not_not.mpr hdeclared), if_neg (Nat.not_lt.mpr hcap), if_pos (by omega)], rfl, rfl, rfl⟩

theorem parseDict_rejects_length (hlt : s.s2.tLen.toNat < 12 + s.glz.lb.toNat) :
    Rejects s .regionTooLarge (parseDict s) :=
  ⟨s, by rw [parseDict, lengthPrefix_eq_raised (by omega), Result.raised_andThen], rfl, rfl, rfl⟩

/-- The dictionary overruns what is left, or the overflow stream's length word behind it does (R243). -/
theorem parseDict_rejects_region (hle : 12 + s.glz.lb.toNat ≤ s.s2.tLen.toNat)
    (hld : read32 s.bufAt (8 + s.glz.lb.toNat) = some ld)
    (hlt : s.s2.tLen.toNat < 16 + s.glz.lb.toNat + ld.toNat) : Rejects s .regionTooLarge (parseDict s) := by
  by_cases hdict : 12 + s.glz.lb.toNat + ld.toNat ≤ s.s2.tLen.toNat
  · have hshort : (dictPlaced (dictLenRead ld s)).s2.tLen.toNat < 12 + s.glz.lb.toNat + ld.toNat + 4 := by
      show s.s2.tLen.toNat < _
      omega
    refine ⟨dictPlaced (dictLenRead ld s), ?_, rfl, rfl, rfl⟩
    rw [parseDict_eq_parseOvf hdict hld, parseOvf]
    exact congrArg (Result.andThen · _) (lengthPrefix_eq_raised hshort)
  · refine ⟨dictLenRead ld s, ?_, rfl, rfl, rfl⟩
    rw [parseDict, lengthPrefix_eq_ok (by omega) hld, Result.ok_andThen, if_pos (by omega)]

theorem parseOvf_rejects_region (hle : 16 + s.glz.lb.toNat + s.glz.ld.toNat ≤ s.s2.tLen.toNat)
    (hlo : read32 s.bufAt (12 + s.glz.lb.toNat + s.glz.ld.toNat) = some lo)
    (hlt : s.s2.tLen.toNat < 16 + s.glz.lb.toNat + s.glz.ld.toNat + lo.toNat) :
    Rejects s .regionTooLarge (parseOvf s) := by
  refine ⟨ovfLenRead lo s, ?_, rfl, rfl, rfl⟩
  rw [parseOvf, lengthPrefix_eq_ok (by omega) hlo, Result.ok_andThen, if_pos (by omega)]

theorem openTable_rejects_length (hlb : s.glz.lb.toNat < 4) : Rejects s .regionTooLarge (openTable s) :=
  ⟨s, if_pos hlb, rfl, rfl, rfl⟩

theorem openTable_rejects_capacity (hlb : 4 ≤ s.glz.lb.toNat) (hn : read32 s.bufAt 8 = some n)
    (hcap : s.cfg.capTable < n.toNat) : Rejects s .allocationFailure (openTable s) := by
  refine ⟨{ s with ct := { s.ct with tlen := n } }, ?_, rfl, rfl, rfl⟩
  rw [openTable, if_neg (Nat.not_lt.mpr hlb), readBuf32_eq_ok.mpr ⟨hn, rfl⟩, Result.ok_andThen]
  exact if_pos hcap

/-! ## The step -/

theorem step_of_glzHdr (hbusy : s.status = .busy) (hphase : s.phase = .glzHdr) :
    step s = (parseHeader s).toOutcome := by
  rw [step_of_busy hbusy, busyResult, hphase]

/-- A part that raises is a fault of the whole step, in the phase in which that part began. -/
theorem parseFaults_of_rejects {u : State} {code : BitVec 4} {r : Result Unit} (hbusy : s.status = .busy)
    (hphase : s.phase = .glzHdr) (hr : parseHeader s = r) (h : Rejects u k r) (hu : u.phase = ph)
    (hsame : u.cfg = s.cfg ∧ u.out = s.out) (hcode : k.code s.cfg.codes = code) : ParseFaults s code ph := by
  obtain ⟨t, rfl, hcfg, hph, hout⟩ := h
  refine ⟨t.raise k, ⟨by rw [step_of_glzHdr hbusy hphase, hr]; rfl, rfl, ?_⟩, hph.trans hu, hout.trans hsame.2⟩
  rw [State.raise_err, hcfg, hsame.1, hcode]
end

/-- Settles O30: every check passes, and the registers are written from the words read. -/
theorem headerParseAccepts : Obligations.HeaderParseAccepts := by
  unfold Obligations.HeaderParseAccepts
  intro s lb ld lo n hbusy hphase hdeclared hcapOut hlb hmin _ hld _ hlo hfit hn hcapTable
  have hparse := parseHeader_eq_openTable hdeclared hcapOut hlb hld hlo hfit
  have hopen := openTable_eq_ok (s := regionsParsed lb ld lo s) hmin hn hcapTable
  have hbase : 16 + lb.toNat + ld.toNat = 12 + lb.toNat + ld.toNat + 4 := by omega
  rw [step_of_glzHdr hbusy hphase, hparse, hopen, hbase]
  rfl

/-- Settles O31: each check raises where the parts before it went on. -/
theorem headerParseRejectsInOrder : Obligations.HeaderParseRejectsInOrder := by
  unfold Obligations.HeaderParseRejectsInOrder
  intro s hbusy hphase
  refine ⟨fun hshort => by rw [step_of_glzHdr hbusy hphase, parseHeader_eq_raised hshort]; rfl, ?_⟩
  intro declared lb hmin hdeclared hlb
  have faults {u : State} {k : ErrKind} {r : Result Unit} {code : BitVec 4} {ph : Phase} :=
    parseFaults_of_rejects (u := u) (k := k) (r := r) (code := code) (ph := ph) hbusy hphase
  have hsizes := parseHeader_eq_checkSizes hmin hdeclared hlb
  refine ⟨fun hne => faults hsizes (checkSizes_rejects_mismatch hne) hphase ⟨rfl, rfl⟩ rfl,
    fun heq hcap => faults hsizes (checkSizes_rejects_capacity heq hcap) hphase ⟨rfl, rfl⟩ rfl, ?_⟩
  rintro rfl hcap
  refine ⟨fun hlt => ?_, fun hfit hlt => ?_, fun ld hfit hld => ?_⟩
  · exact faults hsizes (checkSizes_rejects_bitstream rfl hcap hmin hlt) hphase ⟨rfl, rfl⟩ rfl
  · have hdict := parseHeader_eq_parseDict hdeclared hcap hlb hfit
    exact faults hdict (parseDict_rejects_length hlt) hphase ⟨rfl, rfl⟩ rfl
  have hdict := parseHeader_eq_parseDict hdeclared hcap hlb (by omega)
  refine ⟨fun hlt => faults hdict (parseDict_rejects_region hfit hld hlt) hphase ⟨rfl, rfl⟩ rfl,
    fun lo hfit hlo => ?_⟩
  have hovf := parseHeader_eq_parseOvf hdeclared hcap hlb hld (by omega)
  refine ⟨fun hlt => faults hovf (parseOvf_rejects_region hfit hlo hlt) hphase ⟨rfl, rfl⟩ rfl, fun hfit => ?_⟩
  have htable := parseHeader_eq_openTable hdeclared hcap hlb hld hlo hfit
  exact ⟨fun hlt => faults htable (openTable_rejects_length hlt) rfl ⟨rfl, rfl⟩ rfl,
    fun n hmin hn hcap => faults htable (openTable_rejects_capacity hmin hn hcap) rfl ⟨rfl, rfl⟩ rfl⟩

end Sys2Proof.Proofs
end

section
/-! SUPPORT. The copies of the Glaze loop (spec/46_glaze.md R248 to R252) run forward: the bytes that find their source
and room are written one after another, and the first one that does not ends the copy with `DecodeOverflow`. -/

namespace Sys2Proof.Proofs
open Sys2Proof Sys2Proof.Machine

/-! ## The states a copy goes through -/

/-- `n` bytes have been written at `WP`, which leaves `OUT` as `out` (R250). -/
def written (out : Memory) (n : Nat) (s : State) : State :=
  { s with out := out, glz := { s.glz with wp := s.glz.wp + BitVec.ofNat 32 n } }

/-- `n` dictionary bytes have been taken (R248). -/
def dictTaken (n : Nat) (s : State) : State :=
  { s with glz := { s.glz with dp := s.glz.dp + BitVec.ofNat 32 n } }

/-- One length-overflow byte has been taken (R249). -/
def ovfTaken (s : State) : State := { s with glz := { s.glz with lp := s.glz.lp + 1 } }

section
variable {s : State} {out : Memory} {b : Byte} {lits : List Byte} {dist len count n : Nat}

theorem toNat_add_ofNat {a : Word} (h : a.toNat + n < 2 ^ 32) : (a + BitVec.ofNat 32 n).toNat = a.toNat + n := by
  rw [BitVec.toNat_add, BitVec.toNat_ofNat]
  omega

theorem add_ofNat_succ (a : Word) (n : Nat) : a + BitVec.ofNat 32 (n + 1) = a + BitVec.ofNat 32 n + 1 := by
  rw [BitVec.ofNat_add, ← BitVec.add_assoc]
  rfl

theorem toNat_written_wp (h : s.glz.wp.toNat + n ≤ s.expected.toNat) :
    (written out n s).glz.wp.toNat = s.glz.wp.toNat + n :=
  toNat_add_ofNat (Nat.lt_of_le_of_lt h s.expected.isLt)

theorem toNat_dictTaken_dp (h : s.glz.dp.toNat + n ≤ s.glz.ld.toNat) :
    (dictTaken n s).glz.dp.toNat = s.glz.dp.toNat + n :=
  toNat_add_ofNat (Nat.lt_of_le_of_lt h s.glz.ld.isLt)

theorem dictAddr_dictTaken (h : s.glz.dp.toNat + n ≤ s.glz.ld.toNat) : (dictTaken n s).dictAddr = s.dictAddr + n := by
  rw [State.dictAddr, toNat_dictTaken_dp h, ← Nat.add_assoc]
  rfl

theorem written_zero (s : State) : written s.out 0 s = s := by
  rw [written, BitVec.add_zero]

theorem dictTaken_zero (s : State) : dictTaken 0 s = s := by
  rw [dictTaken, BitVec.add_zero]

theorem dictTaken_succ (n : Nat) (s : State) : dictTaken (n + 1) s = dictTaken 1 (dictTaken n s) := by
  rw [dictTaken, add_ofNat_succ]
  rfl

/-- One byte more, written at the next address. -/
theorem pushOut_written (h : s.glz.wp.toNat + n ≤ s.expected.toNat) :
    (written out n s).pushOut b = written (out.write (s.glz.wp.toNat + n) b) (n + 1) s := by
  rw [State.pushOut, toNat_written_wp h, written, written, add_ofNat_succ]

/-- One literal more, taken and written. -/
theorem pushOut_dictTaken_written (h : s.glz.wp.toNat + n ≤ s.expected.toNat) :
    (dictTaken 1 (written out n (dictTaken n s))).pushOut b =
      written (out.write (s.glz.wp.toNat + n) b) (n + 1) (dictTaken (n + 1) s) := by
  have hpush := pushOut_written (s := dictTaken 1 (dictTaken n s)) (out := out) (b := b) h
  rw [dictTaken_succ n s]
  exact hpush

/-! ## One access -/

theorem fetchDict_of_byte (hdp : s.glz.dp < s.glz.ld) (hb : s.bufAt s.dictAddr = some b) :
    fetchDict s = .ok b (dictTaken 1 s) :=
  fetchDict_eq_ok.mpr ⟨hdp, hb, rfl⟩

theorem fetchDict_of_exhausted (h : s.glz.ld ≤ s.glz.dp) : fetchDict s = .raised .decodeOverflow s :=
  fetchDict_eq_raised.mpr ⟨h, rfl, rfl⟩

theorem fetchOvf_of_byte (hlp : s.glz.lp < s.glz.lo) (hb : s.bufAt s.ovfAddr = some b) :
    fetchOvf s = .ok b (ovfTaken s) :=
  fetchOvf_eq_ok.mpr ⟨hlp, hb, rfl⟩

theorem fetchOvf_of_exhausted (h : s.glz.lo ≤ s.glz.lp) : fetchOvf s = .raised .decodeOverflow s :=
  fetchOvf_eq_raised.mpr ⟨h, rfl, rfl⟩

theorem put_of_room (h : s.glz.wp < s.expected) (b : Byte) : put b s = .ok () (s.pushOut b) :=
  put_eq_ok.mpr ⟨h, rfl⟩

theorem put_of_full (h : s.expected ≤ s.glz.wp) (b : Byte) : put b s = .raised .decodeOverflow s :=
  put_eq_raised.mpr ⟨h, rfl, rfl⟩

/-! ## One byte of a back-reference -/

theorem backref_of_bad_distance (h : dist = 0 ∨ s.glz.wp.toNat < dist) :
    backref dist (len + 1) s = .raised .decodeOverflow s :=
  if_pos (by omega)

theorem backref_succ (hpos : 1 ≤ dist) (hle : dist ≤ s.glz.wp.toNat)
    (hb : s.out.read (s.glz.wp.toNat - dist) = some b) :
    backref dist (len + 1) s = (put b s).andThen fun _ t => backref dist len t := by
  rw [backref, if_neg (by omega), hb]

theorem backref_of_room (hpos : 1 ≤ dist) (hle : dist ≤ s.glz.wp.toNat)
    (hb : s.out.read (s.glz.wp.toNat - dist) = some b) (hroom : s.glz.wp < s.expected) :
    backref dist (len + 1) s = backref dist len (s.pushOut b) := by
  rw [backref_succ hpos hle hb, put_of_room hroom, Result.ok_andThen]

theorem backref_of_full (hpos : 1 ≤ dist) (hle : dist ≤ s.glz.wp.toNat)
    (hb : s.out.read (s.glz.wp.toNat - dist) = some b) (hfull : s.expected ≤ s.glz.wp) :
    backref dist (len + 1) s = .raised .decodeOverflow s := by
  rw [backref_succ hpos hle hb, put_of_full hfull, Result.raised_andThen]

/-! ## One byte of a literal run -/

theorem litrun_of_exhausted (h : s.glz.ld ≤ s.glz.dp) : litrun (count + 1) s = .raised .decodeOverflow s := by
  rw [litrun, fetchDict_of_exhausted h, Result.raised_andThen, Result.raised_andThen]

theorem litrun_of_room (hdp : s.glz.dp < s.glz.ld) (hb : s.bufAt s.dictAddr = some b)
    (hroom : s.glz.wp < s.expected) : litrun (count + 1) s = litrun count ((dictTaken 1 s).pushOut b) := by
  rw [litrun, fetchDict_of_byte hdp hb, Result.ok_andThen, put_of_room (s := dictTaken 1 s) hroom, Result.ok_andThen]

theorem litrun_of_full (hdp : s.glz.dp < s.glz.ld) (hb : s.bufAt s.dictAddr = some b)
    (hfull : s.expected ≤ s.glz.wp) : litrun (count + 1) s = .raised .decodeOverflow (dictTaken 1 s) := by
  rw [litrun, fetchDict_of_byte hdp hb, Result.ok_andThen, put_of_full (s := dictTaken 1 s) hfull,
    Result.raised_andThen]

/-! ## The bytes a back-reference writes -/

theorem copied_zero (s : State) (dist : Nat) : Copied s dist 0 s.out := ⟨nofun, fun _ _ => rfl⟩

/-- The next source byte is one of the last `dist` bytes before the copy, read before it or repeated by it (R251). -/
theorem read_source_of_copied (h : Copied s dist n out) (hpos : 1 ≤ dist) (hle : dist ≤ s.glz.wp.toNat) :
    out.read (s.glz.wp.toNat + n - dist) = s.out.read (s.glz.wp.toNat - dist + n % dist) := by
  by_cases hn : n < dist
  · rw [h.2 _ (.inl (by omega)), Nat.mod_eq_of_lt hn, Nat.sub_add_comm hle]
  · rw [Nat.add_sub_assoc (by omega), h.1 _ (by omega), Nat.mod_eq_sub_mod (by omega : dist ≤ n)]

theorem copied_succ (h : Copied s dist n out) (hb : s.out.read (s.glz.wp.toNat - dist + n % dist) = some b) :
    Copied s dist (n + 1) (out.write (s.glz.wp.toNat + n) b) := by
  refine ⟨fun j hj => ?_, fun x hx => ?_⟩
  · rcases Nat.lt_succ_iff_lt_or_eq.mp hj with hj | rfl
    · rw [Memory.read_write_other _ _ _ _ (by omega), h.1 j hj]
    · rw [Memory.read_write_same, hb]
  · rw [Memory.read_write_other _ _ _ _ (by omega), h.2 x (by omega)]

/-- A source byte of a copy is written before the copy. -/
theorem exists_source (hpos : 1 ≤ dist) (hle : dist ≤ s.glz.wp.toNat) (hout : s.out.Covers s.glz.wp.toNat)
    (n : Nat) : ∃ b, s.out.read (s.glz.wp.toNat - dist + n % dist) = some b := by
  have hmod : n % dist < dist := Nat.mod_lt _ hpos
  exact Option.isSome_iff_exists.mp (hout _ (by omega))

/-- A back-reference with room for `n` bytes writes them, and goes on behind them (R251). -/
theorem backref_add (hpos : 1 ≤ dist) (hle : dist ≤ s.glz.wp.toNat) (hout : s.out.Covers s.glz.wp.toNat)
    (hroom : s.glz.wp.toNat + n ≤ s.expected.toNat) :
    ∃ out, Copied s dist n out ∧ ∀ m, backref dist (n + m) s = backref dist m (written out n s) := by
  induction n with
  | zero => exact ⟨s.out, copied_zero s dist, fun m => by rw [written_zero, Nat.zero_add]⟩
  | succ n ih =>
    obtain ⟨out, hcopied, hrun⟩ := ih (by omega)
    obtain ⟨b, hb⟩ := exists_source hpos hle hout n
    have hwp : (written out n s).glz.wp.toNat = s.glz.wp.toNat + n := toNat_written_wp (by omega)
    have hsource : out.read ((written out n s).glz.wp.toNat - dist) = some b := by
      rw [hwp, read_source_of_copied hcopied hpos hle, hb]
    have hlt : (written out n s).glz.wp.toNat < s.expected.toNat := by omega
    refine ⟨_, copied_succ hcopied hb, fun m => ?_⟩
    rw [Nat.add_right_comm, Nat.add_assoc, hrun, backref_of_room hpos (by omega) hsource hlt,
      pushOut_written (by omega)]

/-- A back-reference inside what is written, with room, writes all its bytes (R251). -/
theorem backref_of_canCopy (h : s.CanCopy dist len) :
    ∃ out, Copied s dist len out ∧ backref dist len s = .ok () (written out len s) := by
  obtain ⟨hpos, hle, hroom, hout⟩ := h
  obtain ⟨out, hcopied, hrun⟩ := backref_add hpos hle hout hroom
  exact ⟨out, hcopied, hrun 0⟩

/-- A back-reference with too little room writes the bytes that fit and raises (R250, R251). -/
theorem backref_of_noRoom (h : s.NoRoom dist len) :
    ∃ out, Copied s dist (s.expected.toNat - s.glz.wp.toNat) out ∧
      backref dist len s = .raised .decodeOverflow (written out (s.expected.toNat - s.glz.wp.toNat) s) := by
  obtain ⟨hpos, hle, hwp, hshort, hout⟩ := h
  have hwp : s.glz.wp.toNat ≤ s.expected.toNat := hwp
  have hfit : s.glz.wp.toNat + (s.expected.toNat - s.glz.wp.toNat) ≤ s.expected.toNat := by omega
  obtain ⟨out, hcopied, hrun⟩ := backref_add hpos hle hout hfit
  obtain ⟨b, hb⟩ := exists_source hpos hle hout (s.expected.toNat - s.glz.wp.toNat)
  obtain ⟨m, hm⟩ : ∃ m, len = s.expected.toNat - s.glz.wp.toNat + (m + 1) :=
    ⟨len - (s.expected.toNat - s.glz.wp.toNat) - 1, by omega⟩
  have hend := toNat_written_wp (out := out) hfit
  have hsource := (read_source_of_copied hcopied hpos hle).trans hb
  rw [← hend] at hsource
  have hfull : s.expected.toNat ≤ (written out (s.expected.toNat - s.glz.wp.toNat) s).glz.wp.toNat := by omega
  exact ⟨out, hcopied, by rw [hm, hrun, backref_of_full hpos (by omega) hsource hfull]⟩

/-! ## The bytes a literal run writes -/

theorem appended_nil (s : State) : Appended s [] s.out := ⟨nofun, fun _ _ => rfl⟩

theorem appended_append_singleton (h : Appended s lits out) (b : Byte) :
    Appended s (lits ++ [b]) (out.write (s.glz.wp.toNat + lits.length) b) := by
  rw [Appended, List.length_append, List.length_singleton]
  refine ⟨fun j hj => ?_, fun x hx => ?_⟩
  · rcases Nat.lt_succ_iff_lt_or_eq.mp hj with hj | rfl
    · rw [Memory.read_write_other _ _ _ _ (by omega), h.1 j hj, List.getElem?_append_left hj]
    · rw [Memory.read_write_same, List.getElem?_concat_length]
  · rw [Memory.read_write_other _ _ _ _ (by omega), h.2 x (by omega)]

/-- With one literal more in the dictionary, it stands behind the others. -/
theorem dictHolds_of_append_singleton (h : s.DictHolds (lits ++ [b])) :
    s.DictHolds lits ∧ s.glz.dp.toNat + lits.length < s.glz.ld.toNat ∧
      s.bufAt (s.dictAddr + lits.length) = some b := by
  obtain ⟨hfit, hread⟩ := h
  rw [List.length_append, List.length_singleton] at hfit hread
  refine ⟨⟨by omega, fun j hj => ?_⟩, by omega, ?_⟩
  · rw [hread j (by omega), List.getElem?_append_left hj]
  · rw [hread _ (Nat.lt_succ_self _), List.getElem?_concat_length]

/-- A literal run with bytes and room for `lits` writes them, and goes on behind them (R252). -/
theorem litrun_add (hdict : s.DictHolds lits) (hroom : s.glz.wp.toNat + lits.length ≤ s.expected.toNat) :
    ∃ out, Appended s lits out ∧
      ∀ m, litrun (lits.length + m) s = litrun m (written out lits.length (dictTaken lits.length s)) := by
  induction lits using List.reverseRecOn with
  | nil =>
    refine ⟨s.out, appended_nil s, fun m => ?_⟩
    rw [List.length_nil, Nat.zero_add, dictTaken_zero, written_zero]
  | append_singleton lits b ih =>
    rw [List.length_append, List.length_singleton] at hroom ⊢
    obtain ⟨hdict, hlt, hb⟩ := dictHolds_of_append_singleton hdict
    obtain ⟨out, happended, hrun⟩ := ih hdict (by omega)
    have hdp : (dictTaken lits.length s).glz.dp.toNat < s.glz.ld.toNat := by
      rw [toNat_dictTaken_dp hdict.1]
      exact hlt
    have hwp : (written out lits.length s).glz.wp.toNat < s.expected.toNat := by
      rw [toNat_written_wp (by omega)]
      omega
    have hbyte : s.bufAt (dictTaken lits.length s).dictAddr = some b := by
      rw [dictAddr_dictTaken hdict.1]
      exact hb
    refine ⟨_, appended_append_singleton happended b, fun m => ?_⟩
    rw [Nat.add_right_comm, Nat.add_assoc, hrun,
      litrun_of_room (s := written out lits.length (dictTaken lits.length s)) hdp hbyte hwp,
      pushOut_dictTaken_written (by omega)]

/-- A literal run with all its bytes and room for them writes them (R252). -/
theorem litrun_of_dictHolds (hdict : s.DictHolds lits) (hroom : s.glz.wp.toNat + lits.length ≤ s.expected.toNat) :
    ∃ out, Appended s lits out ∧
      litrun lits.length s = .ok () (written out lits.length (dictTaken lits.length s)) := by
  obtain ⟨out, happended, hrun⟩ := litrun_add hdict hroom
  exact ⟨out, happended, hrun 0⟩

/-- A literal run that ends early writes the bytes before that point and raises (R250, R252). -/
theorem litrun_of_runEnds (h : s.RunEnds lits) (hlt : lits.length < count) :
    ∃ out n, Appended s lits out ∧
      litrun count s = .raised .decodeOverflow (written out lits.length (dictTaken n s)) := by
  obtain ⟨hdict, hroom, hend⟩ := h
  obtain ⟨out, happended, hrun⟩ := litrun_add hdict hroom
  obtain ⟨m, rfl⟩ : ∃ m, count = lits.length + (m + 1) := ⟨count - lits.length - 1, by omega⟩
  have hdp := toNat_dictTaken_dp hdict.1
  by_cases hleft : s.glz.dp.toNat + lits.length < s.glz.ld.toNat
  · obtain ⟨hfull, hnext⟩ := hend.resolve_left (by omega)
    obtain ⟨b, hb⟩ := Option.isSome_iff_exists.mp hnext
    rw [← dictAddr_dictTaken hdict.1] at hb
    have hwp := toNat_written_wp (out := out) hroom
    refine ⟨out, lits.length + 1, happended, ?_⟩
    rw [hrun, litrun_of_full (s := written out lits.length (dictTaken lits.length s)) (hdp.trans_lt hleft) hb
      (hfull.symm.trans hwp.symm).le, dictTaken_succ lits.length s]
    rfl
  · refine ⟨out, lits.length, happended, ?_⟩
    rw [hrun, litrun_of_exhausted (s := written out lits.length (dictTaken lits.length s))
      ((Nat.not_lt.mp hleft).trans hdp.ge)]
end

end Sys2Proof.Proofs
end

section
/-! SUPPORT. The statements about the copies of the seven Glaze instructions (spec/46_glaze.md R261 to R267): where each
completes, and where it traps with what is written before. -/

namespace Sys2Proof.Proofs
open Sys2Proof Sys2Proof.Machine

section
variable {s : State} {b d0 dHi dLo l0 : Byte} {lits : List Byte} {dist len count : Nat} {r : Result Unit} {t : State}

/-! ## The copy of an instruction, its operands fetched -/

theorem dist5_eq (dHi l0 dLo : Byte) : dist5 dHi l0 dLo = dHi.toNat * 256 + dLo.toNat + l0.toNat := by
  rw [dist5, BitVec.toNat_append, ← Nat.shiftLeft_add_eq_or_of_lt dLo.isLt, Nat.shiftLeft_eq]

theorem exec_cpyd_of_byte (hdp : s.glz.dp < s.glz.ld) (hb : s.bufAt s.dictAddr = some d0) :
    exec (.cpyd l0) s =
      (backref (d0.toNat + l0.toNat + 1) (l0.toNat + 1) (dictTaken 1 (s.advanceTp 2))).toOutcome := by
  show ((fetchDict (s.advanceTp 2)).andThen _).toOutcome = _
  rw [fetchDict_of_byte (s := s.advanceTp 2) hdp hb]
  rfl

theorem exec_cpyw_of_byte (hdp : s.glz.dp < s.glz.ld) (hb : s.bufAt s.dictAddr = some dLo) :
    exec (.cpyw dHi l0) s =
      (backref (dHi.toNat * 256 + dLo.toNat + l0.toNat) (l0.toNat + 1) (dictTaken 1 (s.advanceTp 3))).toOutcome := by
  show ((fetchDict (s.advanceTp 3)).andThen _).toOutcome = _
  rw [fetchDict_of_byte (s := s.advanceTp 3) hdp hb, ← dist5_eq]
  rfl

theorem exec_runx_of_byte (hlp : s.glz.lp < s.glz.lo) (hb : s.bufAt s.ovfAddr = some l0) :
    exec .runx s = (litrun (l0.toNat + 14) (ovfTaken (s.advanceTp 1))).toOutcome := by
  show ((fetchOvf (s.advanceTp 1)).andThen _).toOutcome = _
  rw [fetchOvf_of_byte (s := s.advanceTp 1) hlp hb]
  rfl

theorem exec_lit_of_byte (hdp : s.glz.dp < s.glz.ld) (hb : s.bufAt s.dictAddr = some b) :
    exec .lit s = (put b (dictTaken 1 (s.advanceTp 1))).toOutcome := by
  show ((fetchDict (s.advanceTp 1)).andThen _).toOutcome = _
  rw [fetchDict_of_byte (s := s.advanceTp 1) hdp hb]
  rfl

/-! ## The traps -/

/-- A copy that raises `DecodeOverflow` is a fault taken in the state it leaves (R301). -/
theorem faults_of_raised (h : r = .raised .decodeOverflow t) (hcfg : t.cfg = s.cfg) :
    Faults r.toOutcome s.cfg.codes.decodeOverflow (t.raise .decodeOverflow) := by
  rw [h, ← hcfg]
  exact ⟨rfl, rfl, rfl⟩

theorem faults_of_bad_distance (h : dist = 0 ∨ s.glz.wp.toNat < dist) :
    ∃ t, Faults (backref dist (len + 1) s).toOutcome s.cfg.codes.decodeOverflow t ∧ t.out = s.out ∧
      t.glz.wp = s.glz.wp :=
  ⟨_, faults_of_raised (backref_of_bad_distance h) rfl, rfl, rfl⟩

theorem faults_of_noRoom (h : s.NoRoom dist len) :
    ∃ t, Faults (backref dist len s).toOutcome s.cfg.codes.decodeOverflow t ∧ t.glz.wp = s.expected ∧
      Copied s dist (s.expected.toNat - s.glz.wp.toNat) t.out := by
  obtain ⟨out, hcopied, hrun⟩ := backref_of_noRoom h
  obtain ⟨_, _, hwp, _, _⟩ := h
  have hfit : s.glz.wp.toNat + (s.expected.toNat - s.glz.wp.toNat) = s.expected.toNat := Nat.add_sub_of_le hwp
  have hend := (toNat_written_wp (out := out) hfit.le).trans hfit
  exact ⟨_, faults_of_raised hrun rfl, BitVec.eq_of_toNat_eq hend, hcopied⟩

theorem faults_of_runEnds (h : s.RunEnds lits) (hlt : lits.length < count) :
    ∃ t, Faults (litrun count s).toOutcome s.cfg.codes.decodeOverflow t ∧
      t.glz.wp = s.glz.wp + BitVec.ofNat 32 lits.length ∧ Appended s lits t.out := by
  obtain ⟨out, n, happended, hrun⟩ := litrun_of_runEnds h hlt
  exact ⟨_, faults_of_raised hrun rfl, rfl, happended⟩
end

/-! ## Where an instruction completes -/

/-- Settles O35: from `TP` past the table bytes, the copy has its source and its room. -/
theorem cpyAppendsEarlierBytes : Obligations.CpyAppendsEarlierBytes := by
  unfold Obligations.CpyAppendsEarlierBytes
  intro s d0 l0 h
  obtain ⟨out, hcopied, hrun⟩ := backref_of_canCopy (s := s.advanceTp 3) h
  exact ⟨out, hcopied, congrArg Result.toOutcome hrun⟩

/-- Settles O36: as `CPY`, with the dictionary byte taken first. -/
theorem cpydAppendsEarlierBytes : Obligations.CpydAppendsEarlierBytes := by
  unfold Obligations.CpydAppendsEarlierBytes
  intro s l0 d0 hdp hb h
  obtain ⟨out, hcopied, hrun⟩ := backref_of_canCopy (s := dictTaken 1 (s.advanceTp 2)) h
  exact ⟨out, hcopied, (exec_cpyd_of_byte hdp hb).trans (congrArg Result.toOutcome hrun)⟩

/-- Settles O37: `Copied` repeats the last `dist` bytes, so the overlap is no case of its own. -/
theorem cpywAppendsAndMayOverlap : Obligations.CpywAppendsAndMayOverlap := by
  unfold Obligations.CpywAppendsAndMayOverlap
  intro s dHi l0 dLo hdp hb h
  obtain ⟨out, hcopied, hrun⟩ := backref_of_canCopy (s := dictTaken 1 (s.advanceTp 3)) h
  exact ⟨out, hcopied, (exec_cpyw_of_byte hdp hb).trans (congrArg Result.toOutcome hrun)⟩

/-- Settles O38: the run finds all its bytes and room for them. -/
theorem runCopiesLiterals : Obligations.RunCopiesLiterals := by
  unfold Obligations.RunCopiesLiterals
  intro s l0 lits hlen hdict hroom
  obtain ⟨out, happended, hrun⟩ := litrun_of_dictHolds (s := s.advanceTp 2) hdict hroom
  refine ⟨out, happended, ?_⟩
  show (litrun (l0.toNat + 8) (s.advanceTp 2)).toOutcome = _
  rw [← hlen, hrun]
  rfl

/-- Settles O39: as `RUN`, with the overflow byte taken first. -/
theorem runxCopiesLiterals : Obligations.RunxCopiesLiterals := by
  unfold Obligations.RunxCopiesLiterals
  intro s l0 lits hlp hb hlen hdict hroom
  obtain ⟨out, happended, hrun⟩ := litrun_of_dictHolds (s := ovfTaken (s.advanceTp 1)) hdict hroom
  refine ⟨out, happended, ?_⟩
  rw [exec_runx_of_byte hlp hb, ← hlen, hrun]
  rfl

/-- Settles O33: the dictionary byte is taken and put. -/
theorem litCopiesOneLiteral : Obligations.LitCopiesOneLiteral := by
  unfold Obligations.LitCopiesOneLiteral
  intro s b hdp hb hroom
  rw [exec_lit_of_byte hdp hb, put_of_room (s := dictTaken 1 (s.advanceTp 1)) hroom]
  rfl

/-- Settles O34: one byte of a back-reference, its distance the operand itself. -/
theorem repCopiesOneByteBack : Obligations.RepCopiesOneByteBack := by
  unfold Obligations.RepCopiesOneByteBack
  intro s d b hpos hle hb hroom
  exact congrArg Result.toOutcome (backref_of_room (s := s.advanceTp 2) (len := 0) hpos hle hb hroom)

/-! ## Where an instruction traps -/

/-- Settles O41: the distance is looked at before the first byte. -/
theorem badDistanceTraps : Obligations.BadDistanceTraps := by
  unfold Obligations.BadDistanceTraps
  intro s
  refine ⟨fun d h => ?_, fun d0 l0 h => ?_, fun l0 d0 hdp hb h => ?_, fun dHi l0 dLo hdp hb h => ?_⟩
  · exact congrArg Result.toOutcome (backref_of_bad_distance (s := s.advanceTp 2) (len := 0) h)
  · exact congrArg Result.toOutcome (backref_of_bad_distance (s := s.advanceTp 3) (len := l0.toNat) (.inr h))
  · rw [exec_cpyd_of_byte hdp hb]
    exact faults_of_bad_distance (s := dictTaken 1 (s.advanceTp 2)) (.inr h)
  · rw [exec_cpyw_of_byte hdp hb]
    exact faults_of_bad_distance (s := dictTaken 1 (s.advanceTp 3)) h

/-- Settles O42: `put` finds no room, a back-reference or a run is cut where its room or its dictionary ends. -/
theorem partWrittenInstructionsTrap : Obligations.PartWrittenInstructionsTrap := by
  unfold Obligations.PartWrittenInstructionsTrap
  refine ⟨fun s b hdp hb hfull => ?_, fun s d b hpos hle hb hfull => ?_, fun s d0 l0 h => ?_,
    fun s l0 d0 hdp hb h => ?_, fun s dHi l0 dLo hdp hb h => ?_, fun s l0 lits hlt h => ?_,
    fun s l0 lits hlp hb hlt h => ?_⟩
  · rw [exec_lit_of_byte hdp hb]
    exact ⟨_, faults_of_raised (put_of_full (s := dictTaken 1 (s.advanceTp 1)) hfull b) rfl, rfl, rfl⟩
  · exact congrArg Result.toOutcome (backref_of_full (s := s.advanceTp 2) (len := 0) hpos hle hb hfull)
  · exact faults_of_noRoom (s := s.advanceTp 3) h
  · rw [exec_cpyd_of_byte hdp hb]
    exact faults_of_noRoom (s := dictTaken 1 (s.advanceTp 2)) h
  · rw [exec_cpyw_of_byte hdp hb]
    exact faults_of_noRoom (s := dictTaken 1 (s.advanceTp 3)) h
  · exact faults_of_runEnds (s := s.advanceTp 2) h hlt
  · rw [exec_runx_of_byte hlp hb]
    exact faults_of_runEnds (s := ovfTaken (s.advanceTp 1)) h hlt

end Sys2Proof.Proofs
end

section
/-! SUPPORT. What a Glaze copy changes and how far it goes (spec/46_glaze.md R250 to R253, the inference R271), whether
it completes or traps. -/

namespace Sys2Proof.Proofs
open Sys2Proof Sys2Proof.Machine

/-! ## How far `WP` has moved -/

/-- `k` bytes or more have been written since `s`, at `WP` and in the room there was (R250). -/
structure Wrote (k : Nat) (s t : State) : Prop where
  expected : t.expected = s.expected
  wp : s.glz.wp.toNat + k ≤ t.glz.wp.toNat
  bound : t.glz.wp = s.glz.wp ∨ t.glz.wp ≤ s.expected
  reads : ∀ x, (x < s.glz.wp.toNat ∨ t.glz.wp.toNat ≤ x) → t.out.read x = s.out.read x

/-- An operation goes on with `k` bytes or more written, raises `DecodeOverflow`, or stops the model; raising, it has
written no more than there was room for. -/
inductive Writes {α : Type} (k : Nat) (s : State) : Result α → Prop where
  | ok {a : α} {t : State} (h : Wrote k s t) : Writes k s (.ok a t)
  | raised {t : State} (h : Wrote 0 s t) : Writes k s (.raised .decodeOverflow t)
  | stuck (x : Fault) : Writes k s (.stuck x)

section
variable {α β : Type} {r : Result α} {f : α → State → Result β} {k l : Nat} {s t u : State}

theorem Wrote.refl (s : State) : Wrote 0 s s := ⟨rfl, Nat.le_refl _, .inl rfl, fun _ _ => rfl⟩

/-- With `WP` and `OUT` as they were, nothing has been written. -/
theorem Wrote.of_same (hexpected : t.expected = s.expected) (hwp : t.glz.wp = s.glz.wp) (hout : t.out = s.out) :
    Wrote 0 s t :=
  ⟨hexpected, by rw [hwp]; exact Nat.le_refl _, .inl hwp, fun _ _ => by rw [hout]⟩

theorem Wrote.trans (h : Wrote k s t) (h' : Wrote l t u) : Wrote (k + l) s u where
  expected := h'.expected.trans h.expected
  wp := by
    have hst := h.wp
    have htu := h'.wp
    omega
  bound := by
    rcases h'.bound with hu | hu
    · rw [hu]
      exact h.bound
    · rw [h.expected] at hu
      exact .inr hu
  reads x hx := by
    have hst := h.wp
    have htu := h'.wp
    rw [h'.reads x (by omega), h.reads x (by omega)]

theorem Wrote.mono (h : Wrote k s t) (hl : l ≤ k) : Wrote l s t :=
  ⟨h.expected, Nat.le_trans (Nat.add_le_add_left hl _) h.wp, h.bound, h.reads⟩

theorem Writes.after (h : Wrote k s t) (hr : Writes l t r) : Writes (k + l) s r := by
  cases hr with
  | ok h' => exact .ok (h.trans h')
  | raised h' => exact .raised ((h.trans h').mono (Nat.zero_le _))
  | stuck x => exact .stuck x

theorem Writes.andThen (h : Writes k s r) (hf : ∀ a t, Writes l t (f a t)) : Writes (k + l) s (r.andThen f) := by
  cases h with
  | ok h => exact .after h (hf _ _)
  | raised h => exact .raised h
  | stuck x => exact .stuck x

theorem Writes.mono (h : Writes k s r) (hl : l ≤ k) : Writes l s r := by
  cases h with
  | ok h => exact .ok (h.mono hl)
  | raised h => exact .raised h
  | stuck x => exact .stuck x

/-! ## The accesses and the copies -/

theorem fetchDict_writes (s : State) : Writes 0 s (fetchDict s) := by
  cases h : fetchDict s with
  | ok v t =>
    obtain ⟨_, _, rfl⟩ := fetchDict_eq_ok.mp h
    exact .ok (.of_same rfl rfl rfl)
  | raised k t =>
    obtain ⟨_, rfl, rfl⟩ := fetchDict_eq_raised.mp h
    exact .raised (.refl _)
  | stuck x => exact .stuck x

theorem fetchOvf_writes (s : State) : Writes 0 s (fetchOvf s) := by
  cases h : fetchOvf s with
  | ok v t =>
    obtain ⟨_, _, rfl⟩ := fetchOvf_eq_ok.mp h
    exact .ok (.of_same rfl rfl rfl)
  | raised k t =>
    obtain ⟨_, rfl, rfl⟩ := fetchOvf_eq_raised.mp h
    exact .raised (.refl _)
  | stuck x => exact .stuck x

theorem Wrote.pushOut (hroom : s.glz.wp < s.expected) (b : Byte) : Wrote 1 s (s.pushOut b) where
  expected := rfl
  wp := (toNat_add_one_of_lt hroom).ge
  bound := .inr (le_of_lt_add_one hroom)
  reads x hx := by
    rw [State.pushOut_glz_wp, toNat_add_one_of_lt hroom] at hx
    exact Memory.read_write_other _ _ _ _ (by omega)

/-- `put` looks at the room before it writes (R250). -/
theorem put_writes (b : Byte) (s : State) : Writes 1 s (put b s) := by
  by_cases hroom : s.glz.wp < s.expected
  · rw [put_of_room hroom]
    exact .ok (.pushOut hroom b)
  · rw [put_of_full (BitVec.not_lt.mp hroom)]
    exact .raised (.refl s)

theorem backref_writes (dist len : Nat) (s : State) : Writes len s (backref dist len s) := by
  induction len generalizing s with
  | zero => exact .ok (.refl s)
  | succ len ih =>
    unfold backref
    split
    · exact .raised (.refl s)
    · split
      · exact .stuck _
      · exact ((put_writes _ s).andThen fun _ t => ih t).mono (by omega)

theorem litrun_writes (count : Nat) (s : State) : Writes count s (litrun count s) := by
  induction count generalizing s with
  | zero => exact .ok (.refl s)
  | succ count ih =>
    exact (((fetchDict_writes s).andThen put_writes).andThen fun _ t => ih t).mono (by omega)

/-- The copy of a Glaze instruction writes one byte or more (R271). -/
theorem copyResult_writes {i : Instr} (hi : i.isGlaze = true) (s : State) : Writes 1 s (copyResult i s) := by
  cases i with
  | lit => exact (fetchDict_writes s).andThen put_writes
  | rep d => exact backref_writes _ _ s
  | cpy d0 l0 => exact (backref_writes _ _ s).mono (Nat.le_add_left 1 _)
  | cpyd l0 | cpyw _ l0 =>
    exact (fetchDict_writes s).andThen fun _ t => (backref_writes _ (copyLen l0) t).mono (Nat.le_add_left 1 _)
  | run l0 => exact (litrun_writes _ s).mono (Nat.le_add_left 1 _)
  | runx =>
    exact (fetchOvf_writes s).andThen fun l0 t => (litrun_writes (runxLen l0) t).mono (Nat.le_add_left 1 _)
  | pfx0 | pfx1 _ | pfx2 _ | pfx3 _ | pfx4 _ | pfx5 _ | pfx6 _ | pfxz => cases hi

/-! ## An instruction as a whole -/

/-- A Glaze instruction moves `TP` past its table bytes and copies (R253). -/
theorem exec_of_isGlaze {i : Instr} (hi : i.isGlaze = true) (s : State) :
    exec i s = (copyResult i (s.advanceTp i.size)).toOutcome := by
  rw [exec_eq_instrResult, instrResult, if_pos hi]

/-- The next state of a Glaze instruction: its copy is complete, or `DecodeOverflow` is taken where it raised. -/
theorem exec_glaze_cases {i : Instr} (hi : i.isGlaze = true) (h : exec i s = .next t) :
    ∃ u, CopyFrame (s.advanceTp i.size) u ∧
      ((t = u ∧ Wrote 1 (s.advanceTp i.size) u) ∨
        (t = u.raise .decodeOverflow ∧ Wrote 0 (s.advanceTp i.size) u)) := by
  rw [exec_of_isGlaze hi] at h
  have hframe := fun u => copyResult_leaves (i := i) (s := s.advanceTp i.size) (t := u)
  cases hr : copyResult i (s.advanceTp i.size) with
  | ok a u =>
    have hwrites := copyResult_writes hi (s.advanceTp i.size)
    rw [hr] at h hwrites
    cases h
    cases hwrites with | ok hw => exact ⟨_, hframe _ (.inl ⟨_, hr⟩), .inl ⟨rfl, hw⟩⟩
  | raised k u =>
    have hwrites := copyResult_writes hi (s.advanceTp i.size)
    rw [hr] at h hwrites
    cases h
    cases hwrites with | raised hw => exact ⟨_, hframe _ (.inr ⟨_, hr⟩), .inr ⟨rfl, hw⟩⟩
  | stuck x =>
    rw [hr] at h
    cases h
end

/-- Settles O44: a copy has a frame, and `OUT` outside what it wrote reads as before; the fault writes `STATUS` and
`ERR` alone. -/
theorem glazeInstructionsWriteOnlyOut : Obligations.GlazeInstructionsWriteOnlyOut := by
  unfold Obligations.GlazeInstructionsWriteOnlyOut
  intro i s t hi h
  obtain ⟨u, hframe, ⟨rfl, hw⟩ | ⟨rfl, hw⟩⟩ := exec_glaze_cases hi h
  · have hsame := hframe.same
    refine ⟨?_, .inl ⟨?_, ?_⟩, hw.reads, ?_⟩ <;> rw [hsame] <;> rfl
  · have hsame := hframe.same
    refine ⟨?_, .inr ⟨rfl, ?_⟩, hw.reads, ?_⟩ <;> rw [hsame] <;> rfl

/-- Settles O45: what completes has written a byte, and each byte found room. -/
theorem glazeInstructionsMakeProgress : Obligations.GlazeInstructionsMakeProgress := by
  unfold Obligations.GlazeInstructionsMakeProgress
  intro i s t hi _ h hbusy
  obtain ⟨u, _, ⟨rfl, hw⟩ | ⟨rfl, _⟩⟩ := exec_glaze_cases hi h
  · have hlt : s.glz.wp.toNat < t.glz.wp.toNat := hw.wp
    exact ⟨hlt, hw.bound.resolve_left fun heq => absurd (congrArg BitVec.toNat heq) hlt.ne'⟩
  · cases hbusy

end Sys2Proof.Proofs
end

section
/-! SUPPORT. A step of the Glaze loop (spec/46_glaze.md R246, R247, R268): the bytes of an instruction fetched whole,
cut short by the end of the table, or begun by an illegal opcode. -/

namespace Sys2Proof.Proofs
open Sys2Proof Sys2Proof.Machine

/-- `TP` stands at the end of the table. -/
def atTableEnd (s : State) : State := { s with glz := { s.glz with tp := s.ct.tcount } }

section
variable {s : State} {b op : Byte} {vs bytes : List Byte} {n : Nat}

/-! ## The table bytes -/

theorem fetchTab_of_byte (htp : s.glz.tp < s.ct.tcount) (hb : s.tab.read s.glz.tp.toNat = some b) :
    fetchTab s = .ok b (s.advanceTp 1) :=
  fetchTab_eq_ok.mpr ⟨htp, hb, rfl⟩

theorem fetchTab_of_end (h : s.ct.tcount ≤ s.glz.tp) : fetchTab s = .raised .decodeOverflow s :=
  fetchTab_eq_raised.mpr ⟨h, rfl, rfl⟩

theorem toNat_advanceTp_one (htp : s.glz.tp < s.ct.tcount) : (s.advanceTp 1).glz.tp.toNat = s.glz.tp.toNat + 1 :=
  toNat_add_one_of_lt htp

theorem atTableEnd_of_eq (h : s.glz.tp = s.ct.tcount) : atTableEnd s = s := by
  rw [atTableEnd, ← h]

/-- The bytes `vs` stand in the table from `TP` on. -/
def TabHolds (s : State) (vs : List Byte) : Prop :=
  s.glz.tp.toNat + vs.length ≤ s.ct.tcount.toNat ∧
    ∀ j, j < vs.length → s.tab.read (s.glz.tp.toNat + j) = vs[j]?

theorem TabHolds.tp_lt (h : TabHolds s (b :: vs)) : s.glz.tp < s.ct.tcount :=
  Nat.lt_of_lt_of_le (Nat.lt_add_of_pos_right (Nat.succ_pos vs.length)) h.1

theorem TabHolds.head (h : TabHolds s (b :: vs)) : s.tab.read s.glz.tp.toNat = some b := h.2 0 (Nat.succ_pos _)

theorem TabHolds.tail (h : TabHolds s (b :: vs)) : TabHolds (s.advanceTp 1) vs := by
  obtain ⟨hfit, hread⟩ := h
  rw [List.length_cons] at hfit hread
  rw [TabHolds, toNat_advanceTp_one (by show s.glz.tp.toNat < s.ct.tcount.toNat; omega)]
  refine ⟨by show s.glz.tp.toNat + 1 + vs.length ≤ s.ct.tcount.toNat; omega, fun j hj => ?_⟩
  rw [Nat.add_assoc, Nat.add_comm 1]
  exact hread (j + 1) (by omega)

/-- Operands that are there are fetched (R253). -/
theorem fetchOperands_of_tabHolds (h : TabHolds s vs) : ∃ t, fetchOperands vs.length s = .ok vs t := by
  induction vs generalizing s with
  | nil => exact ⟨s, rfl⟩
  | cons v vs ih =>
    obtain ⟨t, ht⟩ := ih h.tail
    refine ⟨t, ?_⟩
    rw [List.length_cons, fetchOperands, fetchTab_of_byte h.tp_lt h.head, Result.ok_andThen, ht, Result.ok_andThen]

/-- A table that ends inside the operands raises with `TP` at its end (R247). -/
theorem fetchOperands_of_short (htp : s.glz.tp ≤ s.ct.tcount) (hshort : s.ct.tcount.toNat < s.glz.tp.toNat + n)
    (hcells : ∀ j, s.glz.tp.toNat ≤ j → j < s.ct.tcount.toNat → (s.tab.read j).isSome = true) :
    fetchOperands n s = .raised .decodeOverflow (atTableEnd s) := by
  have hle : s.glz.tp.toNat ≤ s.ct.tcount.toNat := htp
  induction n generalizing s with
  | zero => omega
  | succ n ih =>
    by_cases hlt : s.glz.tp < s.ct.tcount
    · obtain ⟨v, hv⟩ := Option.isSome_iff_exists.mp (hcells _ (Nat.le_refl _) hlt)
      have hnext := toNat_advanceTp_one hlt
      have hlt' : s.glz.tp.toNat < s.ct.tcount.toNat := hlt
      have hrest : fetchOperands n (s.advanceTp 1) = .raised .decodeOverflow (atTableEnd s) :=
        ih (le_of_lt_add_one hlt) (by rw [hnext, State.advanceTp_ct]; omega)
          (fun j hj => hcells j (by omega)) (by rw [hnext, State.advanceTp_ct]; omega)
      rw [fetchOperands, fetchTab_of_byte hlt hv, Result.ok_andThen, hrest, Result.raised_andThen]
    · have hend : s.ct.tcount ≤ s.glz.tp := BitVec.not_lt.mp hlt
      rw [fetchOperands, fetchTab_of_end hend, Result.raised_andThen, atTableEnd_of_eq (BitVec.le_antisymm htp hend)]

/-- An opcode byte that decodes has as many operands as the instruction takes (R112). -/
theorem tabOperands_of_decodeTab {i : Instr} (h : decodeTab (op :: vs) = .ok (i, [])) : tabOperands op = vs.length := by
  obtain ⟨w, hw, hbytes⟩ := decodeTab_eq_ok h
  rw [List.append_nil] at hbytes
  subst hbytes
  cases i with
  | lit | rep _ | cpy _ _ | cpyd _ | cpyw _ _ | run _ | runx =>
    cases hw
    rfl
  | pfx0 | pfx1 _ | pfx2 _ | pfx3 _ | pfx4 _ | pfx5 _ | pfx6 _ | pfxz => cases hw

theorem fetchGlazeBytes_of_opcode (htp : s.glz.tp < s.ct.tcount) (hb : s.tab.read s.glz.tp.toNat = some op) :
    fetchGlazeBytes s =
      (fetchOperands (tabOperands op) (s.advanceTp 1)).andThen fun vs t => .ok (op :: vs) t := by
  rw [fetchGlazeBytes, fetchTab_of_byte htp hb, Result.ok_andThen]

/-- The bytes of an instruction are fetched whole where they are all there (R247). -/
theorem fetchGlazeBytes_of_tabHolds {i : Instr} (h : TabHolds s bytes) (hdecode : decodeTab bytes = .ok (i, [])) :
    ∃ t, fetchGlazeBytes s = .ok bytes t := by
  cases bytes with
  | nil => cases hdecode
  | cons op vs =>
    obtain ⟨t, ht⟩ := fetchOperands_of_tabHolds h.tail
    refine ⟨t, ?_⟩
    rw [fetchGlazeBytes_of_opcode h.tp_lt h.head, tabOperands_of_decodeTab hdecode, ht, Result.ok_andThen]

/-! ## The opcodes outside 1..7 -/

theorem tabOperands_of_illegal (h : op.toNat = 0 ∨ 8 ≤ op.toNat) : tabOperands op = 0 := by
  unfold tabOperands
  split <;> omega

theorem decodeTab_of_illegal (h : op.toNat = 0 ∨ 8 ≤ op.toNat) (vs : List Byte) :
    decodeTab (op :: vs) = .error (.illegalOpcode op) := by
  simp only [decodeTab]
  split
  case h_13 => rfl
  all_goals omega

/-! ## The step -/

theorem busyResult_glzRun (h : s.phase = .glzRun) :
    busyResult s = if s.glz.wp < s.expected then fetchedResult (fetchGlaze s) s else .ok () s.finish := by
  rw [busyResult, h]

/-- With bytes still to come, a step of the loop is what becomes of the table bytes fetched. -/
theorem step_of_opcode (hbusy : s.status = .busy) (hphase : s.phase = .glzRun) (hlt : s.glz.wp < s.expected) :
    step s = ((fetchGlazeBytes s).andThen (afterTabBytes s)).toOutcome := by
  rw [step_of_busy hbusy, busyResult_glzRun hphase, if_pos hlt, fetchGlaze_eq_andThen]

/-- A copy that begins with a dictionary byte traps where there is none, nothing written (R248). -/
theorem dictExhausted_traps (h : s.glz.ld ≤ s.glz.dp) (f : Byte → State → Result Unit) :
    ((fetchDict s).andThen f).toOutcome = .next (s.failWith s.cfg.codes.decodeOverflow) := by
  rw [fetchDict_of_exhausted h]
  rfl

/-- A step whose opcode byte lacks an operand traps with `TP` at the end of the table (R247). -/
theorem step_of_operands_short (hbusy : s.status = .busy) (hphase : s.phase = .glzRun) (hlt : s.glz.wp < s.expected)
    (htp : s.glz.tp < s.ct.tcount) (hb : s.tab.read s.glz.tp.toNat = some op)
    (hshort : s.ct.tcount.toNat ≤ s.glz.tp.toNat + tabOperands op)
    (hcells : ∀ j, s.glz.tp.toNat ≤ j → j < s.ct.tcount.toNat → (s.tab.read j).isSome = true) :
    step s = .next ((atTableEnd s).failWith s.cfg.codes.decodeOverflow) := by
  have hnext := toNat_advanceTp_one htp
  have hrest : fetchOperands (tabOperands op) (s.advanceTp 1) = .raised .decodeOverflow (atTableEnd s) :=
    fetchOperands_of_short (le_of_lt_add_one htp) (by rw [hnext, State.advanceTp_ct]; omega)
      fun j hj => hcells j (by omega)
  rw [step_of_opcode hbusy hphase hlt, fetchGlazeBytes_of_opcode htp hb, hrest]
  rfl
end

/-- Settles O32: the bytes are fetched whole, and what they decode to is run. -/
theorem stepRunsTheGlazeInstruction : Obligations.StepRunsTheGlazeInstruction := by
  unfold Obligations.StepRunsTheGlazeInstruction
  intro s bytes i hbusy hphase hlt hfit hread hdecode
  obtain ⟨t, hfetch⟩ := fetchGlazeBytes_of_tabHolds ⟨hfit, hread⟩ hdecode
  rw [step_of_opcode hbusy hphase hlt, hfetch, Result.ok_andThen, afterTabBytes, hdecode, exec_eq_instrResult]

/-- Settles O43: an illegal opcode takes no operand, so `TP` is past that byte alone. -/
theorem illegalOpcodeIsRaised : Obligations.IllegalOpcodeIsRaised := by
  unfold Obligations.IllegalOpcodeIsRaised
  intro s b hbusy hphase hlt htp hb hillegal
  rw [step_of_opcode hbusy hphase hlt, fetchGlazeBytes_of_opcode htp hb, tabOperands_of_illegal hillegal, fetchOperands,
    Result.ok_andThen, Result.ok_andThen, afterTabBytes, decodeTab_of_illegal hillegal]
  rfl

/-- Settles O40: the first fetch from the exhausted stream raises, before a byte is written. -/
theorem exhaustedStreamTraps : Obligations.ExhaustedStreamTraps := by
  unfold Obligations.ExhaustedStreamTraps
  intro s
  refine ⟨fun hdict => ?_, fun hovf => ?_, fun hbusy hphase hlt hend => ?_, ?_⟩
  · exact ⟨dictExhausted_traps (s := s.advanceTp 1) hdict put,
      fun l0 => dictExhausted_traps (s := s.advanceTp 2) hdict _,
      fun dHi l0 => dictExhausted_traps (s := s.advanceTp 3) hdict _,
      fun l0 => congrArg Result.toOutcome (litrun_of_exhausted (s := s.advanceTp 2) (count := l0.toNat + 7) hdict)⟩
  · show ((fetchOvf (s.advanceTp 1)).andThen _).toOutcome = _
    rw [fetchOvf_of_exhausted (s := s.advanceTp 1) hovf]
    rfl
  · rw [step_of_opcode hbusy hphase hlt, fetchGlazeBytes, fetchTab_of_end hend]
    rfl
  · intro b n hbusy hphase hlt htp hb hopcode hshort hcells
    have hoperands : tabOperands b = n := by
      rcases hopcode with ⟨rfl | rfl | rfl, rfl⟩ | ⟨rfl | rfl, rfl⟩ <;> rfl
    exact step_of_operands_short hbusy hphase hlt htp hb (hoperands ▸ hshort) hcells

end Sys2Proof.Proofs
end

section
/-! SUPPORT. The two checks of the orchestrator before the pipeline (spec/47_orchestrator.md R281, R282, R284). -/

namespace Sys2Proof.Proofs
open Sys2Proof Sys2Proof.Machine

section
variable {s : State} {tag size : Word}

/-! ## The header -/

theorem step_of_hdr (hbusy : s.status = .busy) (hphase : s.phase = .hdr) : step s = (checkHeader s).toOutcome := by
  rw [step_of_busy hbusy, busyResult, hphase]

theorem checkHeader_of_beyond_capIn (h : s.cfg.capIn < s.nIn.toNat) :
    checkHeader s = .raised .allocationFailure s := if_pos h

theorem checkHeader_of_short (hcap : s.nIn.toNat ≤ s.cfg.capIn) (h : s.nIn.toNat < Params.headerLen) :
    checkHeader s = .raised .invalidHeader s := by
  rw [checkHeader, if_neg (Nat.not_lt.mpr hcap), if_pos h]

/-- Both lengths are in order: what is left depends on the tag. -/
theorem checkHeader_of_tag (hcap : s.nIn.toNat ≤ s.cfg.capIn) (hlen : Params.headerLen ≤ s.nIn.toNat)
    (htag : read32 s.hdr.read 0 = some tag) :
    checkHeader s =
      if tag ≠ Params.typeTag then .raised .invalidHeader s
      else (readHdr32 4 s).andThen fun size u =>
        .ok () ({ u with expected := size, payLen := u.nIn - BitVec.ofNat 32 Params.headerLen }.enter .seedchk) := by
  rw [checkHeader, if_neg (Nat.not_lt.mpr hcap), if_neg (Nat.not_lt.mpr hlen), readHdr32_eq_ok.mpr ⟨htag, rfl⟩,
    Result.ok_andThen]

theorem checkHeader_of_wrong_tag (hcap : s.nIn.toNat ≤ s.cfg.capIn) (hlen : Params.headerLen ≤ s.nIn.toNat)
    (htag : read32 s.hdr.read 0 = some tag) (hne : tag ≠ Params.typeTag) :
    checkHeader s = .raised .invalidHeader s := by
  rw [checkHeader_of_tag hcap hlen htag, if_pos hne]

theorem checkHeader_eq_ok (hcap : s.nIn.toNat ≤ s.cfg.capIn) (hlen : Params.headerLen ≤ s.nIn.toNat)
    (htag : read32 s.hdr.read 0 = some Params.typeTag) (hsize : read32 s.hdr.read 4 = some size) :
    checkHeader s =
      .ok () { s with phase := .seedchk, expected := size, payLen := s.nIn - BitVec.ofNat 32 Params.headerLen } := by
  rw [checkHeader_of_tag hcap hlen htag, if_neg (not_not_intro rfl), readHdr32_eq_ok.mpr ⟨hsize, rfl⟩,
    Result.ok_andThen]
  rfl

/-! ## The seeds -/

theorem seedInvalid_iff (seeds : SeedSet) :
    seedInvalid seeds = true ↔
      seeds.fence = 0 ∨ seeds.length.e0 = 0 ∨ seeds.length.e1 = 0 ∨ seeds.length.e2 = 0 := by
  simp [seedInvalid, or_assoc]

theorem step_of_seedchk (hbusy : s.status = .busy) (hphase : s.phase = .seedchk) :
    step s = (checkSeeds s).toOutcome := by
  rw [step_of_busy hbusy, busyResult, hphase]
end

/-- Settles O46: the checks in their order, each from the ones before it passed. -/
theorem headerIsChecked : Obligations.HeaderIsChecked := by
  unfold Obligations.HeaderIsChecked
  intro s hbusy hphase
  rw [step_of_hdr hbusy hphase]
  refine ⟨fun hbeyond => ?_, fun hcap => ⟨fun hshort => ?_, fun tag hlen htag => ⟨fun hne => ?_, ?_⟩⟩⟩
  · rw [checkHeader_of_beyond_capIn hbeyond]
    rfl
  · rw [checkHeader_of_short hcap hshort]
    rfl
  · rw [checkHeader_of_wrong_tag hcap hlen htag hne]
    rfl
  · rintro size rfl hsize
    rw [checkHeader_eq_ok hcap hlen htag hsize]
    rfl

/-- Settles O48: the test of the seeds is the disjunction of R284, and the phase does nothing else. -/
theorem seedsAreChecked : Obligations.SeedsAreChecked := by
  unfold Obligations.SeedsAreChecked
  intro s hbusy hphase
  rw [step_of_seedchk hbusy hphase, checkSeeds]
  refine ⟨fun hzero => ?_, fun hfence h0 h1 h2 => ?_⟩
  · rw [if_pos ((seedInvalid_iff _).mpr hzero)]
    rfl
  · have hvalid : ¬ seedInvalid s.seeds = true := by
      rw [seedInvalid_iff]
      rintro (h | h | h | h) <;> contradiction
    rw [if_neg hvalid]
    rfl

end Sys2Proof.Proofs
end

section
/-! SUPPORT. The order of the phases (spec/47_orchestrator.md R285 to R287): a step that goes on is in the next phase or
stays in its loop, and an operation that raises has not moved `PHASE`, but for the header parse, whose last part is the
set-up of the table builder (log 17). -/

namespace Sys2Proof.Proofs
open Sys2Proof Sys2Proof.Machine

/-! ## Operations that leave `PHASE` alone -/

/-- Whatever the operation leaves, `PHASE` is at `p`. -/
def LeavesIn {α : Type} (p : Phase) (r : Result α) : Prop := ∀ u, r.Leaves u → u.phase = p

section
variable {α β : Type} {p : Phase} {k : ErrKind} {s : State} {r : Result α} {f : α → State → Result β}

theorem leavesIn_of_self (h : ∀ u, r.Leaves u → u = s) (hp : s.phase = p) : LeavesIn p r :=
  fun u hu => h u hu ▸ hp

theorem LeavesIn.andThen (hr : LeavesIn p r) (hf : ∀ a u, u.phase = p → LeavesIn p (f a u)) :
    LeavesIn p (r.andThen f) := by
  intro v hv
  rcases Result.andThen_leaves hv with hv | ⟨a, u, hu, hv⟩
  · exact hr v hv
  · exact hf a u (hr u (.inl ⟨a, hu⟩)) v hv

theorem leavesIn_ok {a : α} (hp : s.phase = p) : LeavesIn p (.ok a s) :=
  leavesIn_of_self (fun _ => Result.leaves_ok.mp) hp

theorem readHdr32_leavesIn (a : Nat) (hp : s.phase = p) : LeavesIn p (readHdr32 a s) :=
  leavesIn_of_self (fun _ => readHdr32_leaves) hp

theorem readBuf32_leavesIn (a : Nat) (hp : s.phase = p) : LeavesIn p (readBuf32 a s) :=
  leavesIn_of_self (fun _ => readBuf32_leaves) hp

theorem lengthPrefix_leavesIn (pos : Nat) (hp : s.phase = p) : LeavesIn p (lengthPrefix pos s) :=
  leavesIn_of_self (fun _ => lengthPrefix_leaves) hp

theorem permuteChunks_leavesIn (base total slice : Nat) (m a : Word) (hp : s.phase = p) :
    LeavesIn p (permuteChunks base total slice m a s) := by
  intro u hu
  rw [(permuteChunks_leaves hu).same]
  exact hp

theorem passBFrom_leavesIn (words k : Nat) (hp : s.phase = p) : LeavesIn p (passBFrom words k s) := by
  intro u hu
  rw [(passBFrom_leaves hu).same]
  exact hp

theorem xorFrom_leavesIn (bytes i : Nat) (hp : s.phase = p) : LeavesIn p (xorFrom bytes i s) := by
  intro u hu
  rw [(xorFrom_leaves hu).same]
  exact hp

theorem foldFrom_leavesIn (words j : Nat) (hp : s.phase = p) : LeavesIn p (foldFrom words j s) := by
  intro u hu
  rw [foldFrom_leaves hu]
  exact hp

theorem writeBuf_leavesIn (a : Nat) (v : Byte) (hp : s.phase = p) : LeavesIn p (writeBuf a v s) := by
  intro u hu
  rw [writeBuf_leaves hu]
  exact hp

theorem takeBits_leavesIn (n : Nat) (hp : s.phase = p) : LeavesIn p (takeBits n s) := by
  intro u hu
  rw [takeBits_leaves hu]
  exact hp

theorem fetchCodewordBits_leavesIn (hp : s.phase = p) : LeavesIn p (fetchCodewordBits s) := by
  intro u hu
  rw [fetchCodewordBits_moved hu]
  exact hp

theorem copyResult_leavesIn (i : Instr) (hp : s.phase = p) : LeavesIn p (copyResult i s) := by
  intro u hu
  rw [(copyResult_leaves hu).same]
  exact hp

theorem fetchTab_leavesIn (hp : s.phase = p) : LeavesIn p (fetchTab s) := by
  rintro u (⟨v, hu⟩ | ⟨k, hu⟩)
  · obtain ⟨_, _, rfl⟩ := fetchTab_eq_ok.mp hu
    exact hp
  · obtain ⟨_, _, rfl⟩ := fetchTab_eq_raised.mp hu
    exact hp

theorem fetchOperands_leavesIn (n : Nat) (hp : s.phase = p) : LeavesIn p (fetchOperands n s) := by
  induction n generalizing s with
  | zero => exact leavesIn_ok hp
  | succ n ih => exact (fetchTab_leavesIn hp).andThen fun _ _ hu => (ih hu).andThen fun _ _ hv => leavesIn_ok hv

theorem fetchGlazeBytes_leavesIn (hp : s.phase = p) : LeavesIn p (fetchGlazeBytes s) :=
  (fetchTab_leavesIn hp).andThen fun _ _ hu => (fetchOperands_leavesIn _ hu).andThen fun _ _ hv => leavesIn_ok hv

/-! ## Where an operation raises -/

/-- An operation that began in the phase `p` raises there, or in `GLZ_TAB` if it is the header parse (log 17). -/
def RaisesIn {α : Type} (p : Phase) (r : Result α) : Prop :=
  ∀ k u, r = .raised k u → u.phase = p ∨ (p = .glzHdr ∧ u.phase = .glzTab)

theorem LeavesIn.raisesIn (h : LeavesIn p r) : RaisesIn p r :=
  fun k u hr => .inl (h u (.inr ⟨k, hr⟩))

theorem raisesIn_ok {a : α} : RaisesIn p (.ok a s) := by
  intro k u h
  cases h

theorem raisesIn_raised (hp : s.phase = p) : RaisesIn p (.raised k s : Result α) :=
  LeavesIn.raisesIn (leavesIn_of_self (fun _ => Result.leaves_raised.mp) hp)

theorem LeavesIn.andThen_raisesIn (hr : LeavesIn p r) (hf : ∀ a u, u.phase = p → RaisesIn p (f a u)) :
    RaisesIn p (r.andThen f) := by
  intro k v hv
  rcases Result.andThen_eq_raised.mp hv with hv | ⟨a, u, hu, hv⟩
  · exact hr.raisesIn k v hv
  · exact hf a u (hr u (.inl ⟨a, hu⟩)) k v hv

/-- The loop of a phase, with the entry into the next phase behind it. -/
theorem LeavesIn.andThen_ok_raisesIn {g : α → State → State} {b : α → State → β} (hr : LeavesIn p r) :
    RaisesIn p (r.andThen fun a u => .ok (b a u) (g a u)) :=
  hr.andThen_raisesIn fun _ _ _ => raisesIn_ok

theorem checkHeader_raisesIn (hp : s.phase = p) : RaisesIn p (checkHeader s) := by
  unfold checkHeader
  split
  · exact raisesIn_raised hp
  split
  · exact raisesIn_raised hp
  refine (readHdr32_leavesIn 0 hp).andThen_raisesIn fun _ u hu => ?_
  split
  · exact raisesIn_raised hu
  · exact (readHdr32_leavesIn 4 hu).andThen_ok_raisesIn

theorem checkSeeds_raisesIn (hp : s.phase = p) : RaisesIn p (checkSeeds s) := by
  unfold checkSeeds
  split
  · exact raisesIn_raised hp
  · exact raisesIn_ok

theorem readTail_raisesIn (hp : s.phase = p) : RaisesIn p (readTail s) := by
  unfold readTail
  simp only
  split
  · exact raisesIn_raised hp
  refine LeavesIn.andThen_raisesIn (readBuf32_leavesIn _ hp) fun _ _ hu => ?_
  refine (readBuf32_leavesIn _ hu).andThen_raisesIn fun _ _ hv => ?_
  exact (readBuf32_leavesIn _ hv).andThen_ok_raisesIn

theorem checksum_raisesIn (hp : s.phase = p) : RaisesIn p (checksum s) := by
  refine (writeBuf_leavesIn _ _ hp).andThen_raisesIn fun _ _ hu => ?_
  refine LeavesIn.andThen_raisesIn (foldFrom_leavesIn _ _ hu) fun _ _ hv => ?_
  split
  · exact raisesIn_raised hv
  · exact raisesIn_ok

theorem openTable_raisesIn (hp : s.phase = p) : RaisesIn p (openTable s) := by
  unfold openTable
  split
  · exact raisesIn_raised hp
  refine (readBuf32_leavesIn 8 hp).andThen_raisesIn fun _ _ hu => ?_
  simp only
  split
  · exact raisesIn_raised hu
  · exact raisesIn_ok

/-- The set-up of the table builder is a part of the step that parses the header (log 17). -/
theorem RaisesIn.of_glzTab (h : RaisesIn .glzTab r) : RaisesIn .glzHdr r := by
  intro k u hr
  rcases h k u hr with hu | ⟨hne, _⟩
  · exact .inr ⟨rfl, hu⟩
  · cases hne

theorem parseHeader_raisesIn (hp : s.phase = .glzHdr) : RaisesIn .glzHdr (parseHeader s) := by
  unfold parseHeader
  simp only
  split
  · exact raisesIn_raised hp
  refine (readBuf32_leavesIn 0 hp).andThen_raisesIn fun _ _ hu => ?_
  refine (readBuf32_leavesIn 4 hu).andThen_raisesIn fun _ _ hv => ?_
  split
  · exact raisesIn_raised hv
  split
  · exact raisesIn_raised hv
  split
  · exact raisesIn_raised hv
  refine LeavesIn.andThen_raisesIn (lengthPrefix_leavesIn _ hv) fun _ _ hw => ?_
  split
  · exact raisesIn_raised hw
  refine LeavesIn.andThen_raisesIn (lengthPrefix_leavesIn _ hw) fun _ _ hx => ?_
  split
  · exact raisesIn_raised hx
  · exact RaisesIn.of_glzTab (openTable_raisesIn rfl)

theorem emitEntry_raisesIn (bits k : Nat) (v : Byte) (hp : s.phase = p) : RaisesIn p (emitEntry bits k v s) := by
  refine (takeBits_leavesIn bits hp).andThen_raisesIn fun r _ _ => ?_
  cases r with
  | some _ => exact raisesIn_ok
  | none => exact raisesIn_ok

theorem instrResult_raisesIn (i : Instr) (hp : s.phase = p) : RaisesIn p (instrResult i s) := by
  unfold instrResult
  split
  · exact LeavesIn.raisesIn (copyResult_leavesIn i hp)
  · exact emitEntry_raisesIn _ _ _ hp

theorem fetchCodeword_raisesIn (hp : s.phase = p) : RaisesIn p (fetchedResult (fetchCodeword s) s) := by
  rw [fetchCodeword_eq_andThen]
  refine (fetchCodewordBits_leavesIn hp).andThen_raisesIn fun _ _ _ => ?_
  unfold afterCodewordBits
  split
  · exact instrResult_raisesIn _ hp
  · exact raisesIn_ok

theorem fetchGlaze_raisesIn (hp : s.phase = p) : RaisesIn p (fetchedResult (fetchGlaze s) s) := by
  rw [fetchGlaze_eq_andThen]
  refine (fetchGlazeBytes_leavesIn hp).andThen_raisesIn fun _ _ hu => ?_
  unfold afterTabBytes
  split
  · exact instrResult_raisesIn _ hp
  · exact raisesIn_raised hu
  · exact raisesIn_raised hu
end

/-! ## A step of a decode -/

section
variable {s t : State}

theorem busyResult_raisesIn (s : State) : RaisesIn s.phase (busyResult s) := by
  unfold busyResult
  cases hp : s.phase with
  | hdr => exact checkHeader_raisesIn hp
  | seedchk => exact checkSeeds_raisesIn hp
  | s1a => exact (permuteChunks_leavesIn _ _ _ _ _ hp).andThen_ok_raisesIn
  | s1b => exact LeavesIn.andThen_ok_raisesIn (passBFrom_leavesIn _ _ hp)
  | s2Tail => exact readTail_raisesIn hp
  | s2Scan => exact LeavesIn.andThen_ok_raisesIn (leavesIn_of_self (fun _ => scanBelow_leaves) hp)
  | s2Xor => exact LeavesIn.andThen_ok_raisesIn (xorFrom_leavesIn _ _ hp)
  | s2Ck => exact checksum_raisesIn hp
  | s2Perm => exact (permuteChunks_leavesIn _ _ _ _ _ hp).andThen_ok_raisesIn
  | glzHdr => exact parseHeader_raisesIn hp
  | glzTab =>
    simp only
    split
    · exact fetchCodeword_raisesIn hp
    · exact raisesIn_ok
  | glzRun =>
    simp only
    split
    · exact fetchGlaze_raisesIn hp
    · exact raisesIn_ok
  | finished => exact raisesIn_ok

/-- The decode goes on: to the next phase, or in the loop it is in (R285, log 1). -/
structure GoesOn (s t : State) : Prop where
  status : t.status = s.status
  phase : t.phase.rank = s.phase.rank + 1 ∨ t.phase = s.phase ∧ (s.phase = .glzTab ∨ s.phase = .glzRun)

theorem MovedTo.goesOn {ph : Phase} (h : MovedTo ph s t) (hrank : ph.rank = s.phase.rank + 1) : GoesOn s t :=
  ⟨h.status, .inl (h.phase ▸ hrank)⟩

theorem goesOn_of_movedTo_glzRun (hp : s.phase = .glzTab) (h : MovedTo .glzRun s t) : GoesOn s t :=
  h.goesOn (by rw [hp]; rfl)

theorem emitEntry_goesOn {bits k : Nat} {v : Byte} (hp : s.phase = .glzTab) (h : emitEntry bits k v s = .ok () t) :
    GoesOn s t := by
  obtain ⟨r, u, hu, hok⟩ := Result.andThen_eq_ok.mp h
  have hsame := takeBits_leaves (.inl ⟨r, hu⟩)
  cases r with
  | some _ =>
    cases hok
    exact ⟨by rw [hsame]; rfl, .inr ⟨by rw [hsame]; rfl, .inl hp⟩⟩
  | none =>
    cases hok
    exact goesOn_of_movedTo_glzRun hp ⟨by rw [hsame]; rfl, rfl⟩

/-- The builder emits an entry and stays, or the stream ends and with it the builder (R221, R225). -/
theorem fetchCodeword_goesOn (hp : s.phase = .glzTab) (h : fetchedResult (fetchCodeword s) s = .ok () t) :
    GoesOn s t := by
  rw [fetchCodeword_eq_andThen] at h
  obtain ⟨bits, u, hu, hok⟩ := Result.andThen_eq_ok.mp h
  unfold afterCodewordBits at hok
  split at hok
  · next i _ hd =>
    obtain ⟨w, _, hdecode⟩ := Option.map_eq_some_iff.mp hd
    rw [instrResult, decodeBits_isGlaze hdecode] at hok
    exact emitEntry_goesOn hp hok
  · cases hok
    have hmoved : ReaderMoved s u := fetchCodewordBits_moved (.inl ⟨_, hu⟩)
    exact goesOn_of_movedTo_glzRun hp ⟨by rw [hmoved]; rfl, rfl⟩

/-- The copy of a Glaze instruction ends in the loop (R246). -/
theorem fetchGlaze_goesOn (hp : s.phase = .glzRun) (h : fetchedResult (fetchGlaze s) s = .ok () t) : GoesOn s t := by
  rw [fetchGlaze_eq_andThen] at h
  obtain ⟨bytes, u, hu, hok⟩ := Result.andThen_eq_ok.mp h
  unfold afterTabBytes at hok
  split at hok
  · next i _ hd =>
    rw [instrResult, if_pos (decodeTab_ok hd).1] at hok
    have hsame := (copyResult_leaves (.inl ⟨_, hok⟩)).same
    exact ⟨by rw [hsame]; rfl, .inr ⟨by rw [hsame]; rfl, .inr hp⟩⟩
  · cases hok
  · cases hok

/-- An operation of a decode that does not raise goes on, or is the end of the Glaze loop. -/
theorem busyResult_goesOn (hp : s.phase ≠ .finished) (h : busyResult s = .ok () t) :
    GoesOn s t ∨ s.phase = .glzRun ∧ s.expected ≤ s.glz.wp ∧ t = s.finish := by
  unfold busyResult at h
  cases hs : s.phase with
  | hdr => rw [hs] at h; exact .inl ((checkHeader_movesTo h).goesOn (by rw [hs]; rfl))
  | seedchk => rw [hs] at h; exact .inl ((checkSeeds_movesTo h).goesOn (by rw [hs]; rfl))
  | s1a => rw [hs] at h; exact .inl ((passA_movesTo h).goesOn (by rw [hs]; rfl))
  | s1b => rw [hs] at h; exact .inl ((passB_movesTo h).goesOn (by rw [hs]; rfl))
  | s2Tail => rw [hs] at h; exact .inl ((readTail_movesTo h).goesOn (by rw [hs]; rfl))
  | s2Scan => rw [hs] at h; exact .inl ((scanSentinel_movesTo h).goesOn (by rw [hs]; rfl))
  | s2Xor => rw [hs] at h; exact .inl ((xorDecode_movesTo h).goesOn (by rw [hs]; rfl))
  | s2Ck => rw [hs] at h; exact .inl ((checksum_movesTo h).goesOn (by rw [hs]; rfl))
  | s2Perm => rw [hs] at h; exact .inl ((permuteLeading_movesTo h).goesOn (by rw [hs]; rfl))
  | glzHdr => rw [hs] at h; exact .inl ((parseHeader_movesTo h).goesOn (by rw [hs]; rfl))
  | glzTab =>
    simp only [hs] at h
    split at h
    · exact .inl (fetchCodeword_goesOn hs h)
    · cases h
      exact .inl (goesOn_of_movedTo_glzRun hs ⟨rfl, rfl⟩)
  | glzRun =>
    simp only [hs] at h
    split at h
    · exact .inl (fetchGlaze_goesOn hs h)
    · next hfull =>
      cases h
      exact .inr ⟨rfl, BitVec.not_lt.mp hfull, rfl⟩
  | finished => exact absurd hs hp

/-- The destination is full, an empty one included: the decode ends (R246, R287). -/
theorem step_of_full (hbusy : s.status = .busy) (hp : s.phase = .glzRun) (hfull : s.expected ≤ s.glz.wp) :
    step s = .next s.finish := by
  rw [step_of_busy hbusy, busyResult_glzRun hp, if_neg (BitVec.not_lt.mpr hfull)]
  rfl
end

/-- Settles O49: the operation of the step's phase goes on, ends the decode, or raises where it is. -/
theorem phasesRunInOrder : Obligations.PhasesRunInOrder := by
  unfold Obligations.PhasesRunInOrder
  refine ⟨fun s t hbusy hp hstep => ?_, fun s => step_of_full⟩
  rw [step_of_busy hbusy] at hstep
  rcases Result.toOutcome_eq_next.mp hstep with hok | ⟨k, u, hraised, rfl⟩
  · rcases busyResult_goesOn hp hok with hgo | ⟨hrun, hfull, rfl⟩
    · exact .inl ⟨hgo.status.trans hbusy, hgo.phase⟩
    · exact .inr (.inr ⟨rfl, hrun, rfl, hfull⟩)
  · exact .inr (.inl ⟨State.raise_status k u, busyResult_raisesIn s k u hraised⟩)

end Sys2Proof.Proofs
end

section
/-! SUPPORT. Taking a fault, the way out of `FAILED`, and what the host collects (spec/60_exceptions.md R301, R303,
R304, spec/47_orchestrator.md R287). -/

namespace Sys2Proof.Proofs
open Sys2Proof Sys2Proof.Machine

section
variable {s t : State}

theorem raise_eq_failWith (k : ErrKind) (s : State) : s.raise k = s.failWith (k.code s.cfg.codes) := rfl

/-- The loads write no status (R55). -/
theorem hostAct_status {a : HostAction} (ha : a ≠ .start) (h : hostAct a s = .next t) : t.status = s.status := by
  cases a with
  | loadContainer bytes =>
    rw [hostAct] at h
    split at h
    · cases h
      rfl
    · cases h
  | loadSeeds seeds =>
    cases h
    rfl
  | loadTable table =>
    cases h
    rfl
  | start => exact absurd rfl ha

/-- Outside `BUSY` the one step that changes `STATUS` is the host's `start` (R55, R303). -/
theorem start_of_status_ne (hbusy : s.status ≠ .busy) (h : step s = .next t) (hne : t.status ≠ s.status) :
    ∃ rest, s.host = .start :: rest ∧ t = ({ s with host := rest } : State).start := by
  cases hhost : s.host with
  | nil =>
    rw [step_of_no_request hbusy hhost] at h
    cases h
    exact absurd rfl hne
  | cons a rest =>
    by_cases ha : a = .start
    · subst ha
      rw [step_of_start hbusy hhost] at h
      cases h
      exact ⟨rest, rfl, rfl⟩
    · rw [step_of_request hbusy hhost] at h
      exact absurd (hostAct_status ha h) hne

theorem collect_of_done (h : s.status = .done) : s.collect = .output (s.out.bytes 0 s.expected.toNat) := by
  rw [State.collect, h]

theorem collect_of_failed (h : s.status = .failed) : s.collect = .failure s.err := by
  rw [State.collect, h]

theorem done_of_collect_eq_output {l : Option (List Byte)} (h : s.collect = .output l) : s.status = .done := by
  cases hs : s.status with
  | done => rfl
  | idle | busy | failed =>
    rw [State.collect, hs] at h
    cases h
end

/-- Settles O50: `raise` is the fault of R301, and a step out of `FAILED` is the host's `start`. -/
theorem faultIsTaken : Obligations.FaultIsTaken := by
  unfold Obligations.FaultIsTaken
  refine ⟨fun k s => ⟨raise_eq_failWith k s, code_mem_all _ k, fun hhost => ?_⟩,
    fun s t hfailed hstep hne => ?_, rfl⟩
  · exact step_of_no_request (by rw [State.raise_status]; nofun) hhost
  · obtain ⟨rest, hhost, rfl⟩ := start_of_status_ne (by rw [hfailed]; nofun) hstep (by rwa [hfailed])
    exact ⟨by rw [hhost]; rfl, rfl, rfl, rfl⟩

/-- Settles O51: `collect` in each status. -/
theorem outputOnlyInDone : Obligations.OutputOnlyInDone := by
  unfold Obligations.OutputOnlyInDone
  exact fun s => ⟨collect_of_done, collect_of_failed, fun hne _ h => hne (done_of_collect_eq_output h)⟩

end Sys2Proof.Proofs
end
